-- ==== Sys2Proof/Word.lean ====
section
/-! DEFINITION. The words of the machine: bytes, 16-bit words, the instruction fields (spec/00_scope.md R7;
spec/30_encoding.md R91). Only types and their plainest names stand here. -/

namespace Sys2Proof

/-- A V register, a timer, a memory cell, an immediate `kk`: 8 bits, unsigned (R7, R21). -/
abbrev Byte := BitVec 8

/-- I, PC, a stack entry, an instruction word: 16 bits, unsigned (R5 `ALEN`). -/
abbrev Word := BitVec 16

/-- The field `n`, and any other nibble of an instruction word (R91). -/
abbrev Nibble := BitVec 4

/-- The field `nnn`: a 12-bit immediate address (R91). -/
abbrev Addr12 := BitVec 12

/-- A register number: V0 to VF (R21). -/
abbrev Reg := Fin 16

/-- A key index, 0x0 to 0xF (R29). -/
abbrev Key := Fin 16

end Sys2Proof
end

