-- ==== Sys2Proof/Syntax.lean ====
section
/-! DEFINITION. The instruction set: one constructor per row of spec/opcode_table.json, in the order of
spec/30_encoding.md R95. Operands have exactly the widths of R91, so every term is an instruction. -/

namespace Sys2Proof

/-- The 34 instructions of R95. -/
inductive Instr where
  /-- `CLS` (00E0). -/
  | cls
  /-- `RET` (00EE). -/
  | ret
  /-- `JP nnn` (1nnn). -/
  | jp (nnn : Addr12)
  /-- `CALL nnn` (2nnn). -/
  | call (nnn : Addr12)
  /-- `SE Vx, kk` (3xkk). -/
  | seImm (x : Reg) (kk : Byte)
  /-- `SNE Vx, kk` (4xkk). -/
  | sneImm (x : Reg) (kk : Byte)
  /-- `SE Vx, Vy` (5xy0). -/
  | seReg (x y : Reg)
  /-- `LD Vx, kk` (6xkk). -/
  | ldImm (x : Reg) (kk : Byte)
  /-- `ADD Vx, kk` (7xkk). -/
  | addImm (x : Reg) (kk : Byte)
  /-- `LD Vx, Vy` (8xy0). -/
  | ldReg (x y : Reg)
  /-- `OR Vx, Vy` (8xy1). -/
  | or (x y : Reg)
  /-- `AND Vx, Vy` (8xy2). -/
  | and (x y : Reg)
  /-- `XOR Vx, Vy` (8xy3). -/
  | xor (x y : Reg)
  /-- `ADD Vx, Vy` (8xy4). -/
  | addReg (x y : Reg)
  /-- `SUB Vx, Vy` (8xy5). -/
  | sub (x y : Reg)
  /-- `SHR Vx {, Vy}` (8xy6). -/
  | shr (x y : Reg)
  /-- `SUBN Vx, Vy` (8xy7). -/
  | subn (x y : Reg)
  /-- `SHL Vx {, Vy}` (8xyE). -/
  | shl (x y : Reg)
  /-- `SNE Vx, Vy` (9xy0). -/
  | sneReg (x y : Reg)
  /-- `LD I, nnn` (Annn). -/
  | ldI (nnn : Addr12)
  /-- `JP V0, nnn` (Bnnn). -/
  | jpV0 (nnn : Addr12)
  /-- `RND Vx, kk` (Cxkk). -/
  | rnd (x : Reg) (kk : Byte)
  /-- `DRW Vx, Vy, n` (Dxyn). -/
  | drw (x y : Reg) (n : Nibble)
  /-- `SKP Vx` (Ex9E). -/
  | skp (x : Reg)
  /-- `SKNP Vx` (ExA1). -/
  | sknp (x : Reg)
  /-- `LD Vx, DT` (Fx07). -/
  | ldVxDt (x : Reg)
  /-- `LD Vx, K` (Fx0A). -/
  | ldVxK (x : Reg)
  /-- `LD DT, Vx` (Fx15). -/
  | ldDtVx (x : Reg)
  /-- `LD ST, Vx` (Fx18). -/
  | ldStVx (x : Reg)
  /-- `ADD I, Vx` (Fx1E). -/
  | addI (x : Reg)
  /-- `LD F, Vx` (Fx29). -/
  | ldF (x : Reg)
  /-- `LD B, Vx` (Fx33). -/
  | ldB (x : Reg)
  /-- `LD [I], Vx` (Fx55). -/
  | storeRegs (x : Reg)
  /-- `LD Vx, [I]` (Fx65). -/
  | loadRegs (x : Reg)
  deriving DecidableEq, Repr

end Sys2Proof
end

