-- ==== Sys2Proof/WellFormed.lean ====
section
/-! DEFINITION. Well-formedness. The operands of `Instr` have the widths of spec/30_encoding.md R91 by type, so no term
of `Instr` is ill-formed; what can be ill-formed is an instruction WORD, and R96 lists the illegal ones by class. This
list is written from R96's words, independently of the decoder's table (R95). -/

namespace Sys2Proof

/-- Class 0 (R96 (a)): every `0nnn` except 00E0 and 00EE is illegal. -/
def illegalClass0 (w : Word) : Bool :=
  w.extractLsb' 12 4 == 0x0#4 && !(w == 0x00E0#16) && !(w == 0x00EE#16)

/-- Class 5 (R96 (b)): `5xyn` with n != 0 is illegal. -/
def illegalClass5 (w : Word) : Bool :=
  w.extractLsb' 12 4 == 0x5#4 && !(w.extractLsb' 0 4 == 0x0#4)

/-- Class 8 (R96 (c)): `8xyn` with n in 8, 9, A, B, C, D, F is illegal. -/
def illegalClass8 (w : Word) : Bool :=
  w.extractLsb' 12 4 == 0x8#4 &&
    [0x8#4, 0x9#4, 0xA#4, 0xB#4, 0xC#4, 0xD#4, 0xF#4].contains (w.extractLsb' 0 4)

/-- Class 9 (R96 (d)): `9xyn` with n != 0 is illegal. -/
def illegalClass9 (w : Word) : Bool :=
  w.extractLsb' 12 4 == 0x9#4 && !(w.extractLsb' 0 4 == 0x0#4)

/-- Class E (R96 (e)): `Exkk` with kk not 9E or A1 is illegal. -/
def illegalClassE (w : Word) : Bool :=
  w.extractLsb' 12 4 == 0xE#4 && !([0x9E#8, 0xA1#8].contains (w.extractLsb' 0 8))

/-- Class F (R96 (f)): `Fxkk` with kk not 07, 0A, 15, 18, 1E, 29, 33, 55 or 65 is illegal. -/
def illegalClassF (w : Word) : Bool :=
  w.extractLsb' 12 4 == 0xF#4 &&
    !([0x07#8, 0x0A#8, 0x15#8, 0x18#8, 0x1E#8, 0x29#8, 0x33#8, 0x55#8, 0x65#8].contains (w.extractLsb' 0 8))

/-- The illegal words, exactly (R96). -/
def illegalWord (w : Word) : Bool :=
  illegalClass0 w || illegalClass5 w || illegalClass8 w || illegalClass9 w || illegalClassE w || illegalClassF w

/-- A word is well-formed when R96 does not list it. -/
def wellFormedWord (w : Word) : Bool := !illegalWord w

/-- Every term of `Instr` is well-formed: x and y are 0 to 15, kk is 8 bits, nnn 12 bits and n 4 bits by type (R91). -/
def Instr.wellFormed : Instr → Bool
  | .cls | .ret => true
  | .jp _ | .call _ | .ldI _ | .jpV0 _ => true
  | .seImm _ _ | .sneImm _ _ | .ldImm _ _ | .addImm _ _ | .rnd _ _ => true
  | .seReg _ _ | .ldReg _ _ | .or _ _ | .and _ _ | .xor _ _ | .addReg _ _ => true
  | .sub _ _ | .shr _ _ | .subn _ _ | .shl _ _ | .sneReg _ _ => true
  | .drw _ _ _ => true
  | .skp _ | .sknp _ | .ldVxDt _ | .ldVxK _ | .ldDtVx _ | .ldStVx _ => true
  | .addI _ | .ldF _ | .ldB _ | .storeRegs _ | .loadRegs _ => true

end Sys2Proof
end

