-- ==== Sys2Proof/Decode.lean ====
section
/-! DEFINITION. Decoding and encoding (spec/30_encoding.md R90 to R96): the fields of a word, the opcode map as a list
of rows, the decoder on words and on bytes, the encoder, and the reading of a row of spec/opcode_table.json. -/

namespace Sys2Proof

/-- Field x, `op[11:8]` (R91). -/
def fieldX (w : Word) : Reg := (w.extractLsb' 8 4).toFin

/-- Field y, `op[7:4]` (R91). -/
def fieldY (w : Word) : Reg := (w.extractLsb' 4 4).toFin

/-- Field n, `op[3:0]` (R91). -/
def fieldN (w : Word) : Nibble := w.extractLsb' 0 4

/-- Field kk, `op[7:0]` (R91). -/
def fieldKK (w : Word) : Byte := w.extractLsb' 0 8

/-- Field nnn, `op[11:0]` (R91). -/
def fieldNNN (w : Word) : Addr12 := w.extractLsb' 0 12

/-- One row of the opcode map (R95): a word with `(op AND mask) = pattern` spells `build op`. -/
structure OpcodeRow where
  mask : Word
  pattern : Word
  build : Word → Instr

/-- Rows 1 to 9 of R95. -/
def opcodeRowsA : List OpcodeRow := [
  ⟨0xFFFF#16, 0x00E0#16, fun _ => .cls⟩,
  ⟨0xFFFF#16, 0x00EE#16, fun _ => .ret⟩,
  ⟨0xF000#16, 0x1000#16, fun w => .jp (fieldNNN w)⟩,
  ⟨0xF000#16, 0x2000#16, fun w => .call (fieldNNN w)⟩,
  ⟨0xF000#16, 0x3000#16, fun w => .seImm (fieldX w) (fieldKK w)⟩,
  ⟨0xF000#16, 0x4000#16, fun w => .sneImm (fieldX w) (fieldKK w)⟩,
  ⟨0xF00F#16, 0x5000#16, fun w => .seReg (fieldX w) (fieldY w)⟩,
  ⟨0xF000#16, 0x6000#16, fun w => .ldImm (fieldX w) (fieldKK w)⟩,
  ⟨0xF000#16, 0x7000#16, fun w => .addImm (fieldX w) (fieldKK w)⟩]

/-- Rows 10 to 19 of R95. -/
def opcodeRowsB : List OpcodeRow := [
  ⟨0xF00F#16, 0x8000#16, fun w => .ldReg (fieldX w) (fieldY w)⟩,
  ⟨0xF00F#16, 0x8001#16, fun w => .or (fieldX w) (fieldY w)⟩,
  ⟨0xF00F#16, 0x8002#16, fun w => .and (fieldX w) (fieldY w)⟩,
  ⟨0xF00F#16, 0x8003#16, fun w => .xor (fieldX w) (fieldY w)⟩,
  ⟨0xF00F#16, 0x8004#16, fun w => .addReg (fieldX w) (fieldY w)⟩,
  ⟨0xF00F#16, 0x8005#16, fun w => .sub (fieldX w) (fieldY w)⟩,
  ⟨0xF00F#16, 0x8006#16, fun w => .shr (fieldX w) (fieldY w)⟩,
  ⟨0xF00F#16, 0x8007#16, fun w => .subn (fieldX w) (fieldY w)⟩,
  ⟨0xF00F#16, 0x800E#16, fun w => .shl (fieldX w) (fieldY w)⟩,
  ⟨0xF00F#16, 0x9000#16, fun w => .sneReg (fieldX w) (fieldY w)⟩]

/-- Rows 20 to 25 of R95. -/
def opcodeRowsC : List OpcodeRow := [
  ⟨0xF000#16, 0xA000#16, fun w => .ldI (fieldNNN w)⟩,
  ⟨0xF000#16, 0xB000#16, fun w => .jpV0 (fieldNNN w)⟩,
  ⟨0xF000#16, 0xC000#16, fun w => .rnd (fieldX w) (fieldKK w)⟩,
  ⟨0xF000#16, 0xD000#16, fun w => .drw (fieldX w) (fieldY w) (fieldN w)⟩,
  ⟨0xF0FF#16, 0xE09E#16, fun w => .skp (fieldX w)⟩,
  ⟨0xF0FF#16, 0xE0A1#16, fun w => .sknp (fieldX w)⟩]

/-- Rows 26 to 34 of R95. -/
def opcodeRowsD : List OpcodeRow := [
  ⟨0xF0FF#16, 0xF007#16, fun w => .ldVxDt (fieldX w)⟩,
  ⟨0xF0FF#16, 0xF00A#16, fun w => .ldVxK (fieldX w)⟩,
  ⟨0xF0FF#16, 0xF015#16, fun w => .ldDtVx (fieldX w)⟩,
  ⟨0xF0FF#16, 0xF018#16, fun w => .ldStVx (fieldX w)⟩,
  ⟨0xF0FF#16, 0xF01E#16, fun w => .addI (fieldX w)⟩,
  ⟨0xF0FF#16, 0xF029#16, fun w => .ldF (fieldX w)⟩,
  ⟨0xF0FF#16, 0xF033#16, fun w => .ldB (fieldX w)⟩,
  ⟨0xF0FF#16, 0xF055#16, fun w => .storeRegs (fieldX w)⟩,
  ⟨0xF0FF#16, 0xF065#16, fun w => .loadRegs (fieldX w)⟩]

/-- The complete opcode map (R95), 34 rows. -/
def opcodeTable : List OpcodeRow := opcodeRowsA ++ opcodeRowsB ++ opcodeRowsC ++ opcodeRowsD

/-- Whether a word matches a row: `(op AND mask) = match` (R95). -/
def rowMatches (w : Word) (r : OpcodeRow) : Bool := w &&& r.mask == r.pattern

/-- Stage 2 of R94: the instruction a word spells, none where it matches no row (R96). -/
def decodeWord (w : Word) : Option Instr := (opcodeTable.find? (rowMatches w)).map fun r => r.build w

/-- Why bytes spell no instruction. -/
inductive DecodeError where
  /-- Fewer than the two bytes every instruction has (R90). -/
  | tooShort
  /-- A word that matches no row (R96): `UnknownOpcode` when executed (R204). -/
  | unknownOpcode (w : Word)
  deriving DecidableEq, Repr

/-- The word of two bytes, the first the high-order one (R65, R90). -/
def wordOfBytes (hi lo : Byte) : Word := hi ++ lo

/-- The two bytes of a word in the order of their addresses (R65, R90). -/
def bytesOfWord (w : Word) : List Byte := [w.extractLsb' 8 8, w.extractLsb' 0 8]

/-- The decoder on bytes: the first instruction and the bytes after it, or the reason there is none. -/
def decode : List Byte → Except DecodeError (Instr × List Byte)
  | hi :: lo :: rest =>
    match decodeWord (wordOfBytes hi lo) with
    | some i => .ok (i, rest)
    | none => .error (.unknownOpcode (wordOfBytes hi lo))
  | _ => .error .tooShort

/-- A register number as the four bits of its field (R91). -/
def regBits (x : Reg) : Nibble := BitVec.ofFin x

/-- The word of format XKK (R92): class, x, kk. -/
def packXKK (c : Nibble) (x : Reg) (kk : Byte) : Word := c ++ regBits x ++ kk

/-- The word of format NNN (R92): class, nnn. -/
def packNNN (c : Nibble) (nnn : Addr12) : Word := c ++ nnn

/-- The word of formats XY and XYN (R92): class, x, y, low nibble. -/
def packXYN (c : Nibble) (x y : Reg) (n : Nibble) : Word := c ++ regBits x ++ regBits y ++ n

/-- The encoder, from the pattern column of R95 and the formats of R92. -/
def encode : Instr → Word
  | .cls => 0x00E0#16
  | .ret => 0x00EE#16
  | .jp nnn => packNNN 0x1#4 nnn
  | .call nnn => packNNN 0x2#4 nnn
  | .seImm x kk => packXKK 0x3#4 x kk
  | .sneImm x kk => packXKK 0x4#4 x kk
  | .seReg x y => packXYN 0x5#4 x y 0x0#4
  | .ldImm x kk => packXKK 0x6#4 x kk
  | .addImm x kk => packXKK 0x7#4 x kk
  | .ldReg x y => packXYN 0x8#4 x y 0x0#4
  | .or x y => packXYN 0x8#4 x y 0x1#4
  | .and x y => packXYN 0x8#4 x y 0x2#4
  | .xor x y => packXYN 0x8#4 x y 0x3#4
  | .addReg x y => packXYN 0x8#4 x y 0x4#4
  | .sub x y => packXYN 0x8#4 x y 0x5#4
  | .shr x y => packXYN 0x8#4 x y 0x6#4
  | .subn x y => packXYN 0x8#4 x y 0x7#4
  | .shl x y => packXYN 0x8#4 x y 0xE#4
  | .sneReg x y => packXYN 0x9#4 x y 0x0#4
  | .ldI nnn => packNNN 0xA#4 nnn
  | .jpV0 nnn => packNNN 0xB#4 nnn
  | .rnd x kk => packXKK 0xC#4 x kk
  | .drw x y n => packXYN 0xD#4 x y n
  | .skp x => packXKK 0xE#4 x 0x9E#8
  | .sknp x => packXKK 0xE#4 x 0xA1#8
  | .ldVxDt x => packXKK 0xF#4 x 0x07#8
  | .ldVxK x => packXKK 0xF#4 x 0x0A#8
  | .ldDtVx x => packXKK 0xF#4 x 0x15#8
  | .ldStVx x => packXKK 0xF#4 x 0x18#8
  | .addI x => packXKK 0xF#4 x 0x1E#8
  | .ldF x => packXKK 0xF#4 x 0x29#8
  | .ldB x => packXKK 0xF#4 x 0x33#8
  | .storeRegs x => packXKK 0xF#4 x 0x55#8
  | .loadRegs x => packXKK 0xF#4 x 0x65#8

/-- The 16-bit word whose bits are `w` as spec/opcode_table.json numbers them (bit 0 the least significant bit of the
word), the bits from `nbits` up zero. -/
def tableWord (nbits w : Nat) : Word := BitVec.ofNat 16 (w % 2 ^ nbits)

/-- The instruction the decoder reads from a table word, laid out as the hardware stores it: high byte first (R65). -/
def decodeTableWord (nbits w : Nat) : Option Instr :=
  match decode (bytesOfWord (tableWord nbits w)) with
  | .ok (i, _) => some i
  | .error _ => none

end Sys2Proof
end

