-- ==== Sys2Proof/Config.lean ====
section
/-! DEFINITION. What an implementation fixes (spec/00_scope.md R5 fixed parameters, R6 open parameters) and the free
values: constants without a body, of which nothing can be proved, so that what is proved holds whatever they are. -/

namespace Sys2Proof

/-- `MEM_SIZE` (R5): bytes in the memory array. -/
abbrev memSize : Nat := 4096

/-- `PROG_BASE` (R5): load address of a ROM and reset value of PC. -/
abbrev progBase : Nat := 0x200

/-- `ROM_MAX` (R5): largest ROM length in bytes. -/
abbrev romMax : Nat := 3584

/-- `KEY_PICK` (R6, R162): which pressed key `LD Vx,K` reports. `lowest` is the spec's default; `other` is any other
choice an implementation may make, given by the free value `Config.otherKeyPick`. -/
inductive KeyPick where
  | lowest
  | other
  deriving DecidableEq, Repr

/-- The open parameters of R6 that are constant for the life of a machine. -/
structure Config where
  /-- `QUIRK_LOGIC_CLEARS_VF`: `OR`, `AND`, `XOR` write 0 to VF after writing Vx (R114 to R116). -/
  quirkLogicClearsVf : Bool
  /-- `QUIRK_SHIFT_USES_VY`: `SHR`, `SHL` shift Vy into Vx (R119, R121). -/
  quirkShiftUsesVy : Bool
  /-- `QUIRK_LOADSTORE_INC_I`: `LD [I],Vx`, `LD Vx,[I]` add x + 1 to I (R166, R167). -/
  quirkLoadstoreIncI : Bool
  /-- `KEY_PICK` (R162). -/
  keyPick : KeyPick
  deriving DecidableEq, Repr

/-- The defaults of R6: every quirk false, the lowest pressed key. -/
def Config.default : Config :=
  { quirkLogicClearsVf := false, quirkShiftUsesVy := false, quirkLoadstoreIncI := false, keyPick := .lowest }

/-- FREE VALUE (R6 `rnd`, R122, U5; log entry 2): the byte drawn by the k-th executed `RND`, under no law. -/
opaque Config.rnd : Nat → Byte

/-- FREE VALUE (R6 `KEY_PICK`, U6; log entry 3): the key an implementation other than the default picks from a latch
value. `pickKey` uses it only where it is a pressed key, so it ranges over every function R6 allows. -/
opaque Config.otherKeyPick : BitVec 16 → Key

end Sys2Proof
end

