-- ==== Sys2Proof/Machine/State.lean ====
section
/-! DEFINITION. The state of the block, all of it and nothing else (spec/10_state.md R20), the reasons a step can stop,
and the state after reset (R34). Two fields are the model's own, not the spec's: `cfg` (log entry 1) and `draws`
(log entry 2). -/

namespace Sys2Proof.Machine

/-- The conditions a step can raise (spec/60_exceptions.md R200; spec/00_scope.md R8 `raise F(info)`). The machine TAKES
each of them: FAULT is latched and the step answers a next state (R208), so no step ends in the outcome `fault`. -/
inductive Fault where
  /-- Raised by the fetch, `DRW`, `LD B,Vx`, `LD [I],Vx` and `LD Vx,[I]` on an access past 0xFFF; `addr` is its lowest
  address out of range (R201). Safe: it is what the spec describes. -/
  | outOfBounds (addr : Word)
  /-- Raised by `CALL` with SP = 16 (R202). Safe: it is what the spec describes. -/
  | stackOverflow
  /-- Raised by `RET` with SP = 0 (R203). Safe: it is what the spec describes. -/
  | stackUnderflow
  /-- Raised by the decoder on a word that matches no row (R204). Safe: it is what the spec describes. -/
  | unknownOpcode
  deriving DecidableEq, Repr

/-- Why an operation has no meaning. -/
inductive Refusal where
  /-- An instruction without a meaning yet. Safe; no arm answers it in this model. -/
  | notModelled (mnemonic : String)
  /-- Raised by every host operation but `reset` and `load` on a block that was never reset (R36, R217). Safe. -/
  | neverReset
  deriving DecidableEq, Repr

/-- `FAULT.cause` (R31). -/
inductive FaultCause where
  | none
  | outOfBounds
  | stackOverflow
  | stackUnderflow
  | unknownOpcode
  deriving DecidableEq, Repr

/-- The fault latch FAULT (R31). -/
structure FaultLatch where
  /-- What was raised, `none` while the block is not faulted. -/
  cause : FaultCause
  /-- PC when the fault was raised. -/
  pc : Word
  /-- The instruction word when it had been fetched, else 0. -/
  op : Word
  /-- The lowest out-of-range address for `OutOfBounds`, else 0. -/
  addr : Word
  deriving DecidableEq, Repr

/-- FAULT after reset (R34): `(None, 0, 0, 0)`. -/
def FaultLatch.clear : FaultLatch := { cause := .none, pc := 0#16, op := 0#16, addr := 0#16 }

/-- The memory array as plain data: the cells that differ from their reset contents, addresses rising. -/
abbrev Memory := List Host.Cell

/-- The framebuffer: 32 rows of 64 one-bit pixels; the pixel of column x is bit x of its row (R28; log entry 6). -/
abbrev Framebuffer := Vector (BitVec 64) 32

/-- The complete state of the block (R20). -/
structure State where
  /-- General registers V0 to VF (R21); VF, the flag, is register 15 (R22). -/
  v : Vector Byte 16
  /-- Index register I (R23). -/
  i : Word
  /-- Program counter PC (R24). -/
  pc : Word
  /-- Stack pointer SP, 0 to 16: the number of entries in use (R25). -/
  sp : Fin 17
  /-- Call stack STACK (R25). -/
  stack : Vector Word 16
  /-- Delay timer DT (R26). -/
  dt : Byte
  /-- Sound timer ST (R27). -/
  st : Byte
  /-- Framebuffer FB (R28). -/
  fb : Framebuffer
  /-- Key latch KEYS: bit k is key k, 1 = pressed (R29). -/
  keys : BitVec 16
  /-- Memory array MEM (R30). -/
  mem : Memory
  /-- Fault latch FAULT (R31). -/
  fault : FaultLatch
  /-- MODEL'S OWN: the open parameters of spec/00_scope.md R6; nothing changes them (log entry 1). -/
  cfg : Config
  /-- MODEL'S OWN: how many random bytes have been drawn (log entry 2). -/
  draws : Nat
  deriving DecidableEq, Repr

/-- The state right after `reset` (R34): every register 0, PC = 0x200, memory at its reset contents. -/
def State.reset : State :=
  { v := Vector.replicate 16 0#8
    i := 0#16
    pc := 0x0200#16
    sp := 0
    stack := Vector.replicate 16 0#16
    dt := 0#8
    st := 0#8
    fb := Vector.replicate 32 0#64
    keys := 0#16
    mem := []
    fault := FaultLatch.clear
    cfg := Config.default
    draws := 0 }

/-- What an instruction or a step answers. -/
abbrev Answer := Host.Outcome State Fault Refusal

end Sys2Proof.Machine
end

