-- ==== Sys2Proof/Machine/Ops.lean ====
section
/-! DEFINITION. The named operations over registers, memory and the framebuffer, the bounds check, and taking and leaving
a fault (spec/00_scope.md R8; spec/20_memory.md R60 to R72; spec/43_display.md R150; spec/60_exceptions.md R208, R210). -/

namespace Sys2Proof.Machine

/-! ### Registers -/

/-- `V[x]` (R8, R21). -/
def State.reg (s : State) (x : Reg) : Byte := s.v[x]

/-- `V[x] <- b` (R8, R21). -/
def State.setReg (s : State) (x : Reg) (b : Byte) : State := { s with v := s.v.set x b }

/-- The register that doubles as the flag (R22). -/
abbrev VF : Reg := 15

/-- `I <- w` (R23). -/
def State.setI (s : State) (w : Word) : State := { s with i := w }

/-- `PC <- w` (R24). -/
def State.setPc (s : State) (w : Word) : State := { s with pc := w }

/-- `PC <- PC + 2`, the end of every instruction that does not set PC itself (spec/30_encoding.md R94). -/
def State.advance (s : State) : State := s.setPc (s.pc + 2#16)

/-- The end of a skip instruction: `PC + 4` when its condition holds, else `PC + 2` (spec/41_control_flow.md R130). -/
def State.skipIf (s : State) (c : Bool) : State := s.setPc (if c then s.pc + 4#16 else s.pc + 2#16)

/-- `DT <- b` (R26). -/
def State.setDt (s : State) (b : Byte) : State := { s with dt := b }

/-- `ST <- b` (R27). -/
def State.setSt (s : State) (b : Byte) : State := { s with st := b }

/-- `FB <- f` (R28). -/
def State.setFb (s : State) (f : Framebuffer) : State := { s with fb := f }

/-- `MEM <- m` (R30). -/
def State.setMem (s : State) (m : Memory) : State := { s with mem := m }

/-! ### Memory -/

/-- The font, glyph d at 5 * d, top row first (R72). -/
def font : List Byte := [
  0xF0#8, 0x90#8, 0x90#8, 0x90#8, 0xF0#8,  0x20#8, 0x60#8, 0x20#8, 0x20#8, 0x70#8,
  0xF0#8, 0x10#8, 0xF0#8, 0x80#8, 0xF0#8,  0xF0#8, 0x10#8, 0xF0#8, 0x10#8, 0xF0#8,
  0x90#8, 0x90#8, 0xF0#8, 0x10#8, 0x10#8,  0xF0#8, 0x80#8, 0xF0#8, 0x10#8, 0xF0#8,
  0xF0#8, 0x80#8, 0xF0#8, 0x90#8, 0xF0#8,  0xF0#8, 0x10#8, 0x20#8, 0x40#8, 0x40#8] ++ [
  0xF0#8, 0x90#8, 0xF0#8, 0x90#8, 0xF0#8,  0xF0#8, 0x90#8, 0xF0#8, 0x10#8, 0xF0#8,
  0xF0#8, 0x90#8, 0xF0#8, 0x90#8, 0x90#8,  0xE0#8, 0x90#8, 0xE0#8, 0x90#8, 0xE0#8,
  0xF0#8, 0x80#8, 0x80#8, 0x80#8, 0xF0#8,  0xE0#8, 0x90#8, 0x90#8, 0x90#8, 0xE0#8,
  0xF0#8, 0x80#8, 0xF0#8, 0x80#8, 0xF0#8,  0xF0#8, 0x80#8, 0xF0#8, 0x80#8, 0x80#8]

/-- What an unlisted address reads as: the reset contents of R34, the font in 0x000 to 0x04F and 0 elsewhere. -/
def resetByte (a : Nat) : Byte := font.getD a 0#8

/-- The byte of `MEM` at `a`. The bounds check of R62 is `checkRange`, which comes before every access. -/
def Memory.read : Memory → Nat → Byte
  | [], a => resetByte a
  | (a', b') :: m, a => if a' = a then b' else Memory.read m a

/-- The cell list entry of a byte at `a` in front of `m`: none where the byte is what an unlisted address reads as. -/
def Memory.cons (a : Nat) (b : Byte) (m : Memory) : Memory := if b = resetByte a then m else (a, b) :: m

/-- `MEM[a] <- b`, keeping the list in its canonical form. -/
def Memory.write : Memory → Nat → Byte → Memory
  | [], a, b => Memory.cons a b []
  | (a', b') :: m, a, b =>
    if a < a' then Memory.cons a b ((a', b') :: m)
    else if a = a' then Memory.cons a b m
    else (a', b') :: Memory.write m a b

/-- Bytes stored at ascending addresses from `a` (R65). -/
def Memory.writeBytes (m : Memory) (a : Nat) : List Byte → Memory
  | [] => m
  | b :: bs => Memory.writeBytes (m.write a b) (a + 1) bs

/-- `n` bytes read at ascending addresses from `a` (R65). -/
def Memory.readBytes (m : Memory) (a : Nat) : Nat → List Byte
  | 0 => []
  | n + 1 => m.read a :: Memory.readBytes m (a + 1) n

/-- The canonical form above a bound: addresses from `lo`, rising, below 4096, no entry at its reset contents. -/
def Memory.wfFrom (lo : Nat) : Memory → Bool
  | [] => true
  | (a, b) :: m => decide (lo ≤ a) && decide (a < memSize) && !decide (b = resetByte a) && Memory.wfFrom (a + 1) m

/-- The canonical form of the memory list; equal memories are then equal data. -/
def Memory.wf (m : Memory) : Bool := Memory.wfFrom 0 m

/-- `CheckRange(addr, n)` (R8, R62): what it raises, if anything, for an access of n bytes at `addr`. -/
def checkRange (addr : Word) (n : Nat) : Option Fault :=
  if n ≠ 0 ∧ memSize ≤ addr.toNat + n - 1 then some (.outOfBounds (BitVec.ofNat 16 (max addr.toNat memSize)))
  else none

/-! ### Framebuffer -/

/-- `FB[y][x]` (R28), the coordinates reduced modulo 64 and 32. -/
def Framebuffer.pixel (f : Framebuffer) (x y : Nat) : Bool :=
  (f[y % 32]'(Nat.mod_lt _ (by decide))).getLsbD (x % 64)

/-- `FB[y][x] <- FB[y][x] XOR 1`, the coordinates reduced modulo 64 and 32 (R150). -/
def Framebuffer.flipPixel (f : Framebuffer) (x y : Nat) : Framebuffer :=
  f.set (y % 32) (f[y % 32]'(Nat.mod_lt _ (by decide)) ^^^ (1#64 <<< (x % 64))) (Nat.mod_lt _ (by decide))

/-- The framebuffer with every pixel 0 (R151). -/
def Framebuffer.blank : Framebuffer := Vector.replicate 32 0#64

/-- A draw under way: the framebuffer and whether a pixel went from 1 to 0 (R152). -/
structure Drawing where
  fb : Framebuffer
  collision : Bool
  deriving DecidableEq, Repr

/-- One pixel of a sprite row: the innermost statements of R152. -/
def drawBit (x0 y0 r : Nat) (b : Byte) (d : Drawing) (c : Nat) : Drawing :=
  if b.getLsbD (7 - c) then
    { fb := d.fb.flipPixel (x0 + c) (y0 + r), collision := d.collision || d.fb.pixel (x0 + c) (y0 + r) }
  else d

/-- One row of a sprite, columns 0 to 7, the byte's bit 7 leftmost (R150, R152). -/
def drawRow (m : Memory) (a x0 y0 : Nat) (d : Drawing) (r : Nat) : Drawing :=
  (List.range 8).foldl (drawBit x0 y0 r (m.read (a + r))) d

/-- The loops of R152: n rows of the sprite at address a, onto column x0, row y0. -/
def drawSprite (m : Memory) (a n x0 y0 : Nat) (f : Framebuffer) : Drawing :=
  (List.range n).foldl (drawRow m a x0 y0) { fb := f, collision := false }

/-! ### Faults -/

/-- The cause a raised fault is latched as (R31, R208). -/
def Fault.cause : Fault → FaultCause
  | .outOfBounds _ => .outOfBounds
  | .stackOverflow => .stackOverflow
  | .stackUnderflow => .stackUnderflow
  | .unknownOpcode => .unknownOpcode

/-- The address a raised fault is latched with: that of `OutOfBounds`, else 0 (R31, R201). -/
def Fault.addr : Fault → Word
  | .outOfBounds a => a
  | .stackOverflow | .stackUnderflow | .unknownOpcode => 0#16

/-- The numeric code of a cause (R31, R200). -/
def FaultCause.code : FaultCause → BitVec 3
  | .none => 0#3
  | .outOfBounds => 1#3
  | .stackOverflow => 2#3
  | .stackUnderflow => 3#3
  | .unknownOpcode => 4#3

/-- Faulted: `FAULT.cause` is not `None` (R31). -/
def State.faulted (s : State) : Bool := !decide (s.fault.cause = .none)

/-- Fault entry (R208): FAULT is latched with PC, the fetched word (or 0) and the address, and nothing else changes. -/
def State.takeFault (s : State) (op : Word) (f : Fault) : State :=
  { s with fault := { cause := f.cause, pc := s.pc, op := op, addr := f.addr } }

/-- A raise inside an instruction: the step ends in fault entry, a next state (R8 `raise`, R208). -/
def State.raise (s : State) (op : Word) (f : Fault) : Answer := .next (s.takeFault op f)

/-- Leaving `UnknownOpcode` by the host's `skip` (R210): PC passes the illegal word and the latch is cleared. -/
def State.leaveUnknownOpcode (s : State) : State := { s.advance with fault := FaultLatch.clear }

end Sys2Proof.Machine
end

