-- ==== Sys2Proof/Machine/Operands.lean ====
section
/-! DEFINITION. Operand forms: immediates, addresses, coordinates, key indices, digits and register ranges
(spec/30_encoding.md R93; spec/42 to 46). -/

namespace Sys2Proof.Machine

/-- `nnn` as a 16-bit value, zero-extended (R93). -/
def zext16 (nnn : Addr12) : Word := nnn.setWidth 16

/-- A register's byte as a 16-bit value, zero-extended (R138, R146). -/
def zextByte (b : Byte) : Word := b.setWidth 16

/-- The address in I as a natural number (R62, R123 (f)). -/
def State.addrI (s : State) : Nat := s.i.toNat

/-- The column of a sprite: `V[x] mod 64` (R152). -/
def State.column (s : State) (x : Reg) : Nat := (s.reg x).toNat % 64

/-- The row of a sprite: `V[y] mod 32` (R152). -/
def State.row (s : State) (y : Reg) : Nat := (s.reg y).toNat % 32

/-- The address of a font glyph: `5 * (V[x] AND 0x0F)` (R147). -/
def glyphAddr (b : Byte) : Word := 5#16 * zextByte (b &&& 0x0F#8)

/-- The key a register selects: its low four bits (R160, R161). -/
def keyIndex (b : Byte) : Nat := (b &&& 0x0F#8).toNat

/-- `KEYS[k]` (R29). -/
def State.keyDown (s : State) (k : Nat) : Bool := s.keys.getLsbD k

/-- The smallest pressed key of a latch value, if any (R162, default `KEY_PICK`). -/
def lowestKey (keys : BitVec 16) : Option Key := (List.finRange 16).find? fun k => keys.getLsbD k

/-- The key `LD Vx,K` reports, none while no key is pressed (R162). `other` is the free choice where that is a pressed
key, and so stands for every function R6 allows. -/
def pickKey (c : Config) (keys : BitVec 16) : Option Key :=
  match c.keyPick with
  | .lowest => lowestKey keys
  | .other =>
    if keys.getLsbD (Config.otherKeyPick keys) then some (Config.otherKeyPick keys) else lowestKey keys

/-- The register a shift reads: Vy under `QUIRK_SHIFT_USES_VY`, else Vx (R119, R121). -/
def shiftSource (c : Config) (x y : Reg) : Reg := if c.quirkShiftUsesVy then y else x

/-- Hundreds, tens and units of a byte, one digit a byte (R165). -/
def bcdDigits (b : Byte) : List Byte :=
  [BitVec.ofNat 8 (b.toNat / 100), BitVec.ofNat 8 (b.toNat / 10 % 10), BitVec.ofNat 8 (b.toNat % 10)]

/-- V0 to Vx, in order (R166). -/
def State.regsTo (s : State) (x : Reg) : List Byte := s.v.toList.take (x.val + 1)

/-- Registers from number k on set from a list of bytes (R167). -/
def setRegsFrom (v : Vector Byte 16) (k : Nat) : List Byte → Vector Byte 16
  | [] => v
  | b :: bs => setRegsFrom (v.setIfInBounds k b) (k + 1) bs

/-- V0, V1, ... set from a list of bytes (R167). -/
def State.setRegs (s : State) (bs : List Byte) : State := { s with v := setRegsFrom s.v 0 bs }

/-- I after an array store or load: `(I + x + 1) mod 65536` under `QUIRK_LOADSTORE_INC_I`, else unchanged (R166, R167). -/
def State.stepI (s : State) (x : Reg) : State :=
  if s.cfg.quirkLoadstoreIncI then s.setI (s.i + BitVec.ofNat 16 (x.val + 1)) else s

end Sys2Proof.Machine
end

