-- ==== Sys2Proof/Machine/Flags.lean ====
section
/-! DEFINITION. Flag computations: every value written to VF as a side effect (spec/10_state.md R22). -/

namespace Sys2Proof.Machine

/-- A flag as a byte: 1 or 0. -/
def flagByte (c : Bool) : Byte := if c then 1#8 else 0#8

/-- `VF <- 1 if c else 0` (R22). -/
def State.setFlag (s : State) (c : Bool) : State := s.setReg VF (flagByte c)

/-- Carry of an addition: the unreduced sum exceeds 255 (R117). -/
def carry (a b : Byte) : Bool := decide (255 < a.toNat + b.toNat)

/-- No borrow of `a - b`: `a >= b` (R118, R120). -/
def noBorrow (a b : Byte) : Bool := decide (b.toNat ≤ a.toNat)

/-- The bit a right shift shifts out: bit 0 (R119). -/
def outRight (b : Byte) : Bool := b.getLsbD 0

/-- The bit a left shift shifts out: bit 7 (R121). -/
def outLeft (b : Byte) : Bool := b.getLsbD 7

/-- The last statement of `OR`, `AND`, `XOR`: `if QUIRK_LOGIC_CLEARS_VF: VF <- 0` (R114 to R116). -/
def State.logicFlag (s : State) : State := if s.cfg.quirkLogicClearsVf then s.setReg VF 0#8 else s

end Sys2Proof.Machine
end

