-- ==== Sys2Proof/Machine/ArithLogic.lean ====
section
/-! DEFINITION. Arithmetic and logic instructions (spec/40_arithmetic_logic.md R110 to R123), statement by statement in
the order R110 fixes. -/

namespace Sys2Proof.Machine

/-- A logic operation: result to Vx, then the quirk's clear of VF (R114 to R116). -/
def State.logic (s : State) (f : Byte → Byte → Byte) (x y : Reg) : State :=
  (s.setReg x (f (s.reg x) (s.reg y))).logicFlag

/-- A result and its flag: Vx is written first and VF last (R110). -/
def State.setWithFlag (s : State) (x : Reg) (b : Byte) (c : Bool) : State := (s.setReg x b).setFlag c

/-- A shift of register `src` into Vx: VF takes the bit shifted out first, and the shift reads `src` after that (R110). -/
def State.shift (s : State) (out : Byte → Bool) (f : Byte → Byte) (x src : Reg) : State :=
  let s' := s.setFlag (out (s.reg src))
  s'.setReg x (f (s'.reg src))

/-- `LD Vx, kk` (R111). -/
def execLdImm (x : Reg) (kk : Byte) (s : State) : Answer := .next (s.setReg x kk).advance

/-- `ADD Vx, kk` (R112): VF is not written as a flag. -/
def execAddImm (x : Reg) (kk : Byte) (s : State) : Answer := .next (s.setReg x (s.reg x + kk)).advance

/-- `LD Vx, Vy` (R113). -/
def execLdReg (x y : Reg) (s : State) : Answer := .next (s.setReg x (s.reg y)).advance

/-- `OR Vx, Vy` (R114). -/
def execOr (x y : Reg) (s : State) : Answer := .next (s.logic (fun a b => a ||| b) x y).advance

/-- `AND Vx, Vy` (R115). -/
def execAnd (x y : Reg) (s : State) : Answer := .next (s.logic (fun a b => a &&& b) x y).advance

/-- `XOR Vx, Vy` (R116). -/
def execXor (x y : Reg) (s : State) : Answer := .next (s.logic (fun a b => a ^^^ b) x y).advance

/-- `ADD Vx, Vy` (R117). -/
def execAddReg (x y : Reg) (s : State) : Answer :=
  .next (s.setWithFlag x (s.reg x + s.reg y) (carry (s.reg x) (s.reg y))).advance

/-- `SUB Vx, Vy` (R118). -/
def execSub (x y : Reg) (s : State) : Answer :=
  .next (s.setWithFlag x (s.reg x - s.reg y) (noBorrow (s.reg x) (s.reg y))).advance

/-- `SHR Vx {, Vy}` (R119). -/
def execShr (x y : Reg) (s : State) : Answer :=
  .next (s.shift outRight (fun b => b >>> 1) x (shiftSource s.cfg x y)).advance

/-- `SUBN Vx, Vy` (R120). -/
def execSubn (x y : Reg) (s : State) : Answer :=
  .next (s.setWithFlag x (s.reg y - s.reg x) (noBorrow (s.reg y) (s.reg x))).advance

/-- `SHL Vx {, Vy}` (R121). -/
def execShl (x y : Reg) (s : State) : Answer :=
  .next (s.shift outLeft (fun b => b <<< 1) x (shiftSource s.cfg x y)).advance

/-- The draw of an executed `RND`: the free byte at the counter, which advances (R122, log entry 2). -/
def State.draw (s : State) : Byte × State := (Config.rnd s.draws, { s with draws := s.draws + 1 })

/-- `RND Vx, kk` (R122). -/
def execRnd (x : Reg) (kk : Byte) (s : State) : Answer := .next (s.draw.2.setReg x (s.draw.1 &&& kk)).advance

end Sys2Proof.Machine
end

