-- ==== Sys2Proof/Machine/BcdArray.lean ====
section
/-! DEFINITION. BCD and register-array instructions (spec/46_bcd_array.md R164 to R167). The range check precedes every
write, so an instruction that faults has written nothing (R164). -/

namespace Sys2Proof.Machine

/-- `LD B, Vx` (R165). -/
def execLdB (x : Reg) (s : State) : Answer :=
  match checkRange s.i 3 with
  | some f => s.raise (encode (.ldB x)) f
  | none => .next (s.setMem (s.mem.writeBytes s.addrI (bcdDigits (s.reg x)))).advance

/-- `LD [I], Vx` (R166). -/
def execStoreRegs (x : Reg) (s : State) : Answer :=
  match checkRange s.i (x.val + 1) with
  | some f => s.raise (encode (.storeRegs x)) f
  | none => .next ((s.setMem (s.mem.writeBytes s.addrI (s.regsTo x))).stepI x).advance

/-- `LD Vx, [I]` (R167). -/
def execLoadRegs (x : Reg) (s : State) : Answer :=
  match checkRange s.i (x.val + 1) with
  | some f => s.raise (encode (.loadRegs x)) f
  | none => .next ((s.setRegs (s.mem.readBytes s.addrI (x.val + 1))).stepI x).advance

end Sys2Proof.Machine
end

