-- ==== Sys2Proof/Machine/ControlFlow.lean ====
section
/-! DEFINITION. Control-flow instructions (spec/41_control_flow.md R130 to R139). -/

namespace Sys2Proof.Machine

/-- `STACK[SP] <- w; SP <- SP + 1`, with SP below 16 (R25, R133). -/
def State.push (s : State) (w : Word) (h : s.sp.val < 16) : State :=
  { s with stack := s.stack.set s.sp.val w, sp := ⟨s.sp.val + 1, Nat.add_lt_add_right h 1⟩ }

/-- `SP <- SP - 1; PC <- STACK[SP]`, with SP above 0; the vacated entry keeps its contents (R25, R131). -/
def State.popPc (s : State) (h : 0 < s.sp.val) : State :=
  { s with
    sp := ⟨s.sp.val - 1, Nat.lt_of_le_of_lt (Nat.sub_le _ _) s.sp.isLt⟩
    pc := s.stack[s.sp.val - 1]'(Nat.sub_one_lt_of_le h (Nat.le_of_lt_succ s.sp.isLt)) }

/-- `RET` (R131). -/
def execRet (s : State) : Answer :=
  if h : 0 < s.sp.val then .next (s.popPc h) else s.raise (encode .ret) .stackUnderflow

/-- `JP nnn` (R132). -/
def execJp (nnn : Addr12) (s : State) : Answer := .next (s.setPc (zext16 nnn))

/-- `CALL nnn` (R133). -/
def execCall (nnn : Addr12) (s : State) : Answer :=
  if h : s.sp.val < 16 then .next ((s.push (s.pc + 2#16) h).setPc (zext16 nnn))
  else s.raise (encode (.call nnn)) .stackOverflow

/-- `SE Vx, kk` (R134). -/
def execSeImm (x : Reg) (kk : Byte) (s : State) : Answer := .next (s.skipIf (decide (s.reg x = kk)))

/-- `SNE Vx, kk` (R135). -/
def execSneImm (x : Reg) (kk : Byte) (s : State) : Answer := .next (s.skipIf (!decide (s.reg x = kk)))

/-- `SE Vx, Vy` (R136). -/
def execSeReg (x y : Reg) (s : State) : Answer := .next (s.skipIf (decide (s.reg x = s.reg y)))

/-- `SNE Vx, Vy` (R137). -/
def execSneReg (x y : Reg) (s : State) : Answer := .next (s.skipIf (!decide (s.reg x = s.reg y)))

/-- `JP V0, nnn` (R138): the 16-bit sum, not reduced to 12 bits. -/
def execJpV0 (nnn : Addr12) (s : State) : Answer := .next (s.setPc (zext16 nnn + zextByte (s.reg 0)))

end Sys2Proof.Machine
end

