-- ==== Sys2Proof/Machine/Display.lean ====
section
/-! DEFINITION. Display instructions (spec/43_display.md R150 to R152). -/

namespace Sys2Proof.Machine

/-- `CLS` (R151). -/
def execCls (s : State) : Answer := .next (s.setFb Framebuffer.blank).advance

/-- The draw of `DRW` from state s: the sprite of n rows at I, at column `V[x] mod 64`, row `V[y] mod 32` (R152). -/
def State.drawing (s : State) (x y : Reg) (n : Nibble) : Drawing :=
  drawSprite s.mem s.addrI n.toNat (s.column x) (s.row y) s.fb

/-- `DRW Vx, Vy, n` (R152): range check, draw, then VF takes the collision. -/
def execDrw (x y : Reg) (n : Nibble) (s : State) : Answer :=
  match checkRange s.i n.toNat with
  | some f => s.raise (encode (.drw x y n)) f
  | none => .next ((s.setFb (s.drawing x y n).fb).setFlag (s.drawing x y n).collision).advance

end Sys2Proof.Machine
end

