-- ==== Sys2Proof/Machine/IndexRegister.lean ====
section
/-! DEFINITION. Index-register instructions (spec/42_memory_index.md R145 to R147). -/

namespace Sys2Proof.Machine

/-- `LD I, nnn` (R145). -/
def execLdI (nnn : Addr12) (s : State) : Answer := .next (s.setI (zext16 nnn)).advance

/-- `ADD I, Vx` (R146): 16-bit wrap, VF not written. -/
def execAddI (x : Reg) (s : State) : Answer := .next (s.setI (s.i + zextByte (s.reg x))).advance

/-- `LD F, Vx` (R147). -/
def execLdF (x : Reg) (s : State) : Answer := .next (s.setI (glyphAddr (s.reg x))).advance

end Sys2Proof.Machine
end

