-- ==== Sys2Proof/Machine/Input.lean ====
section
/-! DEFINITION. Input instructions (spec/45_input.md R160 to R162). They read the key latch and never write it. -/

namespace Sys2Proof.Machine

/-- `SKP Vx` (R160). -/
def execSkp (x : Reg) (s : State) : Answer := .next (s.skipIf (s.keyDown (keyIndex (s.reg x))))

/-- `SKNP Vx` (R161). -/
def execSknp (x : Reg) (s : State) : Answer := .next (s.skipIf (!s.keyDown (keyIndex (s.reg x))))

/-- `LD Vx, K` (R162): nothing changes while no key is pressed; else the picked key goes to Vx. -/
def execLdVxK (x : Reg) (s : State) : Answer :=
  match pickKey s.cfg s.keys with
  | none => .next s
  | some k => .next (s.setReg x (BitVec.ofNat 8 k.val)).advance

end Sys2Proof.Machine
end

