-- ==== Sys2Proof/Machine/Timer.lean ====
section
/-! DEFINITION. Timer instructions (spec/44_timer.md R155 to R157). The countdown is the host's `tick`. -/

namespace Sys2Proof.Machine

/-- `LD Vx, DT` (R155). -/
def execLdVxDt (x : Reg) (s : State) : Answer := .next (s.setReg x s.dt).advance

/-- `LD DT, Vx` (R156). -/
def execLdDtVx (x : Reg) (s : State) : Answer := .next (s.setDt (s.reg x)).advance

/-- `LD ST, Vx` (R157). -/
def execLdStVx (x : Reg) (s : State) : Answer := .next (s.setSt (s.reg x)).advance

end Sys2Proof.Machine
end

