-- ==== Sys2Proof/Machine/Fetch.lean ====
section
/-! DEFINITION. Stages 0 to 2 of one step: the latch, the fetch and the decode (spec/30_encoding.md R94), and placing a
word where the next fetch finds it. -/

namespace Sys2Proof.Machine

/-- The word at PC, high byte first (R65). -/
def State.wordAtPc (s : State) : Word := wordOfBytes (s.mem.read s.pc.toNat) (s.mem.read (s.pc.toNat + 1))

/-- What stages 0 to 2 of R94 come to. -/
inductive Fetched where
  /-- Stage 0: the block is faulted and nothing happens (R209). -/
  | halted
  /-- Stage 1 or 2 raises: the fetched word, or 0 where none was fetched, and the fault (R207). -/
  | raised (op : Word) (f : Fault)
  /-- Stage 2 found the row: the instruction to execute. -/
  | run (i : Instr)
  deriving DecidableEq, Repr

/-- Stages 0 to 2 of R94, in that order: the latch, the fetch check and fetch, the decode. -/
def State.fetch (s : State) : Fetched :=
  if s.faulted then .halted
  else
    match checkRange s.pc 2 with
    | some f => .raised 0#16 f
    | none =>
      match decodeWord s.wordAtPc with
      | some i => .run i
      | none => .raised s.wordAtPc .unknownOpcode

/-- The state a fetch can happen in: not faulted and, where PC cannot be fetched from, with PC at 0x200 (log entry 5). -/
def State.fetchable (s : State) : State :=
  { s with
    fault := if s.faulted then FaultLatch.clear else s.fault
    pc := if s.pc.toNat + 1 < memSize then s.pc else BitVec.ofNat 16 progBase }

/-- A word stored at PC, high byte first (R65), in a state that can fetch it. -/
def State.placeWord (s : State) (w : Word) : State :=
  s.fetchable.setMem (s.mem.writeBytes s.fetchable.pc.toNat (bytesOfWord w))

end Sys2Proof.Machine
end

