-- ==== Sys2Proof/Machine/Step.lean ====
section
/-! DEFINITION. One step of the engine (spec/30_encoding.md R94; spec/60_exceptions.md R207 to R209), and a word placed
where the next step fetches it (log entry 5). -/

namespace Sys2Proof.Machine

/-- One `step` (R94): a faulted block does nothing; a raise is fault entry; an instruction executes. -/
def step (s : State) : Host.Outcome State Fault Refusal :=
  match s.fetch with
  | .halted => .next s
  | .raised op f => s.raise op f
  | .run i => exec i s

/-- `s` with a table word where `step` fetches its next instruction. -/
def State.withFetchWord (s : State) (nbits w : Nat) : State := s.placeWord (tableWord nbits w)

end Sys2Proof.Machine
end

