-- ==== Sys2Proof/Machine/HostOps.lean ====
section
/-! DEFINITION. The host interface (spec/60_exceptions.md R209, R210, R213 to R217; spec/70_reset_and_hazards.md R240,
R241, R247; spec/10_state.md R35, R36): every operation the host may issue, what it returns, and sequences of them. -/

namespace Sys2Proof.Machine

/-! ### Operations on a block that has been reset -/

/-- `reset()` (R240): everything to the values of R34. The configuration is constant for the life of the machine (R6),
and the draw counter goes on, so that no draw is repeated (log entry 2). -/
def State.resetOp (s : State) : State := { State.reset with cfg := s.cfg, draws := s.draws }

/-- Whether `load` accepts a ROM: at most 3584 bytes (R241). -/
def romFits (rom : List Byte) : Bool := decide (rom.length ≤ romMax)

/-- A successful `load(rom)`: reset, then the bytes from 0x200 upward (R241, R73). -/
def State.loadRom (s : State) (rom : List Byte) : State :=
  s.resetOp.setMem (s.resetOp.mem.writeBytes progBase rom)

/-- One countdown: minus 1 unless 0 (R213). -/
def countDown (b : Byte) : Byte := if b = 0#8 then 0#8 else b - 1#8

/-- `tick()` (R213). -/
def State.tick (s : State) : State := { s with dt := countDown s.dt, st := countDown s.st }

/-- `set_key(k, pressed)` (R215). -/
def State.setKey (s : State) (k : Key) (pressed : Bool) : State :=
  { s with keys := if pressed then s.keys ||| (1#16 <<< k.val) else s.keys &&& ~~~(1#16 <<< k.val) }

/-- Whether `skip()` is accepted: the block is faulted with `UnknownOpcode` (R210). -/
def State.skipAccepted (s : State) : Bool := decide (s.fault.cause = .unknownOpcode)

/-- `skip()` (R210). -/
def State.skip (s : State) : State := if s.skipAccepted then s.leaveUnknownOpcode else s

/-- `sound_active` (R214). -/
def State.soundActive (s : State) : Bool := !decide (s.st = 0#8)

/-- The framebuffer snapshot: 2048 booleans, element `y * 64 + x` the pixel of column x, row y (R28, R216). -/
def State.snapshot (s : State) : List Bool := (List.range 2048).map fun k => s.fb.pixel (k % 64) (k / 64)

/-! ### The result of a step -/

/-- The result of a step (R94, R217): an output, not state (R32 (c)). -/
structure StepReport where
  displayModified : Bool
  fault : FaultCause
  deriving DecidableEq, Repr

/-- Whether the row is `CLS` or `DRW` (R94 stage 4, R216). -/
def Instr.drawsDisplay : Instr → Bool
  | .cls => true
  | .drw _ _ _ => true
  | .ret => false
  | .jp _ | .call _ | .ldI _ | .jpV0 _ => false
  | .seImm _ _ | .sneImm _ _ | .ldImm _ _ | .addImm _ _ | .rnd _ _ => false
  | .seReg _ _ | .ldReg _ _ | .or _ _ | .and _ _ | .xor _ _ | .addReg _ _ => false
  | .sub _ _ | .shr _ _ | .subn _ _ | .shl _ _ | .sneReg _ _ => false
  | .skp _ | .sknp _ | .ldVxDt _ | .ldVxK _ | .ldDtVx _ | .ldStVx _ => false
  | .addI _ | .ldF _ | .ldB _ | .storeRegs _ | .loadRegs _ => false

/-- The report of the step that goes from `s` to `t`: the fault `t` is latched with, and `display_modified` exactly when
a `CLS` or `DRW` was run and completed (R94, R208 (c), R209, R216). -/
def stepReport (s t : State) : StepReport :=
  { fault := t.fault.cause
    displayModified :=
      match s.fetch with
      | .halted | .raised _ _ => false
      | .run i => Instr.drawsDisplay i && !t.faulted }

/-! ### The whole interface -/

/-- Every operation of R217. -/
inductive HostOp where
  | reset
  | load (rom : List Byte)
  | step
  | tick
  | setKey (k : Key) (pressed : Bool)
  | skip
  | readFramebuffer
  | readSoundActive
  | readState
  deriving DecidableEq, Repr

/-- What an operation returns (R217). -/
inductive HostReply where
  /-- Returns nothing (`reset`, `tick`, `set_key`). -/
  | done
  /-- `load` succeeded. -/
  | loaded
  /-- `RomTooLarge` (R205). -/
  | romTooLarge
  /-- The result of a step. -/
  | stepped (r : StepReport)
  /-- `skip` was accepted. -/
  | skipAccepted
  /-- `skip` was refused. -/
  | skipRefused
  /-- The framebuffer snapshot. -/
  | framebuffer (pixels : List Bool)
  /-- `sound_active`. -/
  | sound (active : Bool)
  /-- All state (R35). -/
  | state (s : State)
  deriving DecidableEq, Repr

/-- The block over its life: it has no state before its first `reset` or successful `load` (R36). -/
inductive Block where
  | neverReset
  | live (s : State)
  deriving DecidableEq, Repr

/-- What an operation answers: the block after it and its reply. -/
abbrev OpAnswer := Host.Outcome (Block × HostReply) Fault Refusal

/-- One operation on a block that has been reset (R217). -/
def State.apply (s : State) : HostOp → OpAnswer
  | .reset => .next (.live s.resetOp, .done)
  | .load rom => if romFits rom then .next (.live (s.loadRom rom), .loaded) else .next (.live s, .romTooLarge)
  | .step =>
    match step s with
    | .next t => .next (.live t, .stepped (stepReport s t))
    | .fault f => .fault f
    | .refused r => .refused r
  | .tick => .next (.live s.tick, .done)
  | .setKey k pressed => .next (.live (s.setKey k pressed), .done)
  | .skip => .next (.live s.skip, if s.skipAccepted then .skipAccepted else .skipRefused)
  | .readFramebuffer => .next (.live s, .framebuffer s.snapshot)
  | .readSoundActive => .next (.live s, .sound s.soundActive)
  | .readState => .next (.live s, .state s)

/-- One operation on a block that was never reset, of configuration `c`: only `reset` and `load` have a meaning (R36),
and a refused `load` leaves it never reset (R241). -/
def applyNeverReset (c : Config) : HostOp → OpAnswer
  | .reset => .next (.live { State.reset with cfg := c }, .done)
  | .load rom =>
    if romFits rom then .next (.live (State.loadRom { State.reset with cfg := c } rom), .loaded)
    else .next (.neverReset, .romTooLarge)
  | .step | .tick | .setKey _ _ | .skip | .readFramebuffer | .readSoundActive | .readState => .refused .neverReset

/-- One operation on a block of configuration `c` (R217). A live block carries its configuration in its state. -/
def Block.apply (c : Config) (b : Block) (op : HostOp) : OpAnswer :=
  match b with
  | .neverReset => applyNeverReset c op
  | .live s => s.apply op

/-- A sequence of operations (R247), stopping where one has no meaning. -/
def Block.run (c : Config) : List HostOp → Block → Host.Outcome Block Fault Refusal
  | [], b => .next b
  | op :: ops, b =>
    match b.apply c op with
    | .next r => Block.run c ops r.1
    | .fault f => .fault f
    | .refused r => .refused r

end Sys2Proof.Machine
end

