-- ==== Sys2Proof/Safety.lean ====
section
/-! DEFINITION. The terms in which claims speak: the invariant of every reachable state (spec/10_state.md R38), what a
step leaves unchanged, the reading of a row of the opcode map, the cover of a sprite, and the end of a run. -/

namespace Sys2Proof.Machine

/-- The invariant of every reachable state: memory in canonical form (4096 cells, R38), PC at most 0x10FE (R24, R38),
every stack entry in use at most 4096 (R38), FAULT clear while not faulted, and else holding the PC it was raised at, an
address of 4096 or more for `OutOfBounds`, and a PC that was fetched from for `UnknownOpcode` (R31, R208, R209). The
ranges of V, DT, ST, I, SP and FB are in their types. -/
abbrev State.Inv (s : State) : Prop :=
  s.mem.wf = true ∧
  s.pc.toNat ≤ 0x10FE ∧
  (∀ k : Fin 16, k.val < s.sp.val → s.stack[k].toNat ≤ memSize) ∧
  (s.fault.cause = .none → s.fault = FaultLatch.clear) ∧
  (s.fault.cause ≠ .none → s.fault.pc = s.pc) ∧
  (s.fault.cause = .outOfBounds → memSize ≤ s.fault.addr.toNat) ∧
  (s.fault.cause = .unknownOpcode → s.pc.toNat + 1 < memSize)

/-- The parts of the state a claim can name (R20). -/
inductive Part where
  | regs | index | pc | sp | stack | dt | st | fb | keys | mem | fault | draws
  deriving DecidableEq, Repr

/-- Every part not listed is the same in `t` as in `s`; memory is compared byte by byte, and the configuration is always
the same (R6). -/
def changesOnly (ps : List Part) (s t : State) : Prop :=
  (.regs ∈ ps ∨ t.v = s.v) ∧ (.index ∈ ps ∨ t.i = s.i) ∧ (.pc ∈ ps ∨ t.pc = s.pc) ∧ (.sp ∈ ps ∨ t.sp = s.sp) ∧
  (.stack ∈ ps ∨ t.stack = s.stack) ∧ (.dt ∈ ps ∨ t.dt = s.dt) ∧ (.st ∈ ps ∨ t.st = s.st) ∧
  (.fb ∈ ps ∨ t.fb = s.fb) ∧ (.keys ∈ ps ∨ t.keys = s.keys) ∧
  (.mem ∈ ps ∨ ∀ a : Nat, t.mem.read a = s.mem.read a) ∧
  (.fault ∈ ps ∨ t.fault = s.fault) ∧ (.draws ∈ ps ∨ t.draws = s.draws) ∧ t.cfg = s.cfg

/-- The parts an instruction may write, FAULT included where it can raise (R21 to R29, R60, R201 to R203). -/
def mayWrite : Instr → List Part
  | .cls => [.fb, .pc]
  | .ret => [.sp, .pc, .fault]
  | .jp _ | .jpV0 _ => [.pc]
  | .call _ => [.sp, .stack, .pc, .fault]
  | .seImm _ _ | .sneImm _ _ | .seReg _ _ | .sneReg _ _ | .skp _ | .sknp _ => [.pc]
  | .ldImm _ _ | .addImm _ _ | .ldReg _ _ | .or _ _ | .and _ _ | .xor _ _ => [.regs, .pc]
  | .addReg _ _ | .sub _ _ | .shr _ _ | .subn _ _ | .shl _ _ => [.regs, .pc]
  | .rnd _ _ => [.regs, .pc, .draws]
  | .ldI _ | .addI _ | .ldF _ => [.index, .pc]
  | .drw _ _ _ => [.regs, .fb, .pc, .fault]
  | .ldVxDt _ | .ldVxK _ => [.regs, .pc]
  | .ldDtVx _ => [.dt, .pc]
  | .ldStVx _ => [.st, .pc]
  | .ldB _ => [.mem, .pc, .fault]
  | .storeRegs _ => [.mem, .index, .pc, .fault]
  | .loadRegs _ => [.regs, .index, .pc, .fault]

/-- Whether an instruction may change VF: the flag writers of R22, and the writers of Vx where x is F (R22). -/
def mayWriteVF (c : Config) : Instr → Bool
  | .addReg _ _ | .sub _ _ | .subn _ _ | .shr _ _ | .shl _ _ | .drw _ _ _ => true
  | .or x _ | .and x _ | .xor x _ => c.quirkLogicClearsVf || decide (x = VF)
  | .ldImm x _ | .addImm x _ | .ldReg x _ | .rnd x _ => decide (x = VF)
  | .ldVxDt x | .ldVxK x | .loadRegs x => decide (x = VF)
  | .cls | .ret | .jp _ | .call _ | .ldI _ | .jpV0 _ => false
  | .seImm _ _ | .sneImm _ _ | .seReg _ _ | .sneReg _ _ | .skp _ | .sknp _ => false
  | .ldDtVx _ | .ldStVx _ | .addI _ | .ldF _ | .ldB _ | .storeRegs _ => false

/-- A row of the opcode map (R95): every word with `(op AND mask) = pattern` spells `build op`. -/
def spells (mask pattern : Word) (build : Word → Instr) : Prop :=
  ∀ w : Word, w &&& mask = pattern → decodeWord w = some (build w)

/-- `OutOfBounds` as latched for an access from address `a` by the instruction word `op` (R201, R208), all else kept. -/
def State.outOfBoundsAt (s : State) (op a : Word) : State :=
  { s with fault := { cause := .outOfBounds, pc := s.pc, op := op, addr := BitVec.ofNat 16 (max a.toNat memSize) } }

/-- What a logic instruction does from `s` to `t`, bit by bit: the result of `f` goes to Vx, and then VF is 0 under the
quirk (R114 to R116). -/
def logicEffect (f : Bool → Bool → Bool) (x y : Reg) (s t : State) : Prop :=
  (∀ (r : Reg) (k : Nat), (t.reg r).getLsbD k =
    if r = VF ∧ s.cfg.quirkLogicClearsVf = true then false
    else if r = x then f ((s.reg x).getLsbD k) ((s.reg y).getLsbD k) else (s.reg r).getLsbD k) ∧
  t.pc = s.pc + 2#16 ∧ changesOnly [.regs, .pc] s t

/-- What a subtraction of `b` from `a` into Vx does from `s` to `t`: the difference, plus 256 on a borrow, goes to Vx, and
then "no borrow" to VF (R118, R120). -/
def differenceEffect (a b : Byte) (x : Reg) (s t : State) : Prop :=
  (∀ r : Reg, (t.reg r).toNat =
    if r = VF then (if b.toNat ≤ a.toNat then 1 else 0)
    else if r = x then (if b.toNat ≤ a.toNat then a.toNat - b.toNat else a.toNat + 256 - b.toNat)
    else (s.reg r).toNat) ∧
  t.pc = s.pc + 2#16 ∧ changesOnly [.regs, .pc] s t

/-- A 1 bit of the sprite of n rows at address a, drawn at column x0, row y0, falls on the pixel of column px, row py:
row offset r, column offset c, bit 7 the leftmost, wrap-around on both axes (R150). -/
def covers (m : Memory) (a n x0 y0 px py : Nat) : Prop :=
  ∃ r c : Nat, r < n ∧ c < 8 ∧ (m.read (a + r)).getLsbD (7 - c) = true ∧ (x0 + c) % 64 = px ∧ (y0 + r) % 32 = py

/-- `k` ticks (R213). -/
def State.ticks (s : State) : Nat → State
  | 0 => s
  | k + 1 => State.ticks s.tick k

/-- The end of a run by the convention of spec/70_reset_and_hazards.md R244 (c): not faulted, at a jump to itself. -/
def State.selfJump (s : State) : Bool := decide (s.fetch = .run (.jp (s.pc.setWidth 12))) && decide (s.pc.toNat < 4096)

end Sys2Proof.Machine
end

