-- ==== Sys2Proof/Certificates/Slice0/Obligations.lean ====
section
/-! DEFINITION. The statements for the provers, from the numbered rules of spec/. Numbers follow the spec's own words:
sums, differences and digits are stated over natural numbers, pixels and keys one by one, and every frame names all of
memory byte by byte (`changesOnly`). -/

open Sys2Proof Sys2Proof.Machine

/-! ### Encoding and decoding (spec/30_encoding.md) -/

/-- R95, R92, R90: the decoder reads from the two bytes of an encoded instruction that instruction, every operand kept,
and leaves the bytes after it. -/
def Obligations.DecodeOfEncodeIsTheInstruction : Prop :=
  ∀ (i : Instr) (rest : List Byte), i.wellFormed = true →
    decodeWord (encode i) = some i ∧ decode (bytesOfWord (encode i) ++ rest) = .ok (i, rest)

/-- R95: a word has one meaning; the encoder gives back the word an instruction was decoded from. -/
def Obligations.EncodeOfDecodeIsTheWord : Prop :=
  ∀ (w : Word) (i : Instr), decodeWord w = some i → encode i = w

/-- R95: the map has 34 rows, a word spells the instruction of a row it matches, and it matches no second row. -/
def Obligations.EveryWordMatchesAtMostOneRow : Prop :=
  opcodeTable.length = 34 ∧
  (∀ (w : Word) (r : OpcodeRow), r ∈ opcodeTable → w &&& r.mask = r.pattern → decodeWord w = some (r.build w)) ∧
  (∀ (w : Word) (j k : Fin 34) (r r' : OpcodeRow), opcodeTable[j.val]? = some r → opcodeTable[k.val]? = some r' →
    w &&& r.mask = r.pattern → w &&& r'.mask = r'.pattern → j = k)

/-- R96: the words that spell no instruction are exactly those of the groups (a) to (f), and executing one latches
`UnknownOpcode` with the word. -/
def Obligations.IllegalWordsAreExactlyTheListedOnes : Prop :=
  (∀ w : Word, decodeWord w = none ↔ illegalWord w = true) ∧
  (∀ s : State, s.faulted = false → s.pc.toNat + 1 < memSize → illegalWord s.wordAtPc = true →
    step s = .next { s with fault := { cause := .unknownOpcode, pc := s.pc, op := s.wordAtPc, addr := 0#16 } })

/-- R95, sanity: words written out from the patterns, one for each family. -/
def Obligations.SampleWordsDecodeAsListed : Prop :=
  decodeWord 0x6005#16 = some (.ldImm 0 0x05#8) ∧ decodeWord 0x1200#16 = some (.jp 0x200#12) ∧
  decodeWord 0x812E#16 = some (.shl 1 2) ∧ decodeWord 0xA300#16 = some (.ldI 0x300#12) ∧
  decodeWord 0xD345#16 = some (.drw 3 4 5#4) ∧ decodeWord 0xF315#16 = some (.ldDtVx 3) ∧
  decodeWord 0xE29E#16 = some (.skp 2) ∧ decodeWord 0xF265#16 = some (.loadRegs 2) ∧ decodeWord 0x0000#16 = none

/-! ### The step cycle and faults (spec/30_encoding.md R94, spec/60_exceptions.md) -/

/-- R94: when the block is not faulted and the two bytes at PC decode to an instruction, the step is the execution of
that instruction; nothing is added around it. -/
def Obligations.StepRunsTheDecodedInstruction : Prop :=
  ∀ (s : State) (i : Instr) (rest : List Byte), s.faulted = false → s.pc.toNat + 1 < memSize →
    decode (s.mem.read s.pc.toNat :: s.mem.read (s.pc.toNat + 1) :: rest) = .ok (i, rest) → step s = exec i s

/-- The model's own means of placing a word (log entry 5): the very next step runs exactly the instruction placed, from
any state with canonical memory. -/
def Obligations.PlacedWordIsTheNextInstruction : Prop :=
  ∀ (s : State) (i : Instr), s.mem.wf = true →
    step (s.withFetchWord 16 (encode i).toNat) = exec i (s.withFetchWord 16 (encode i).toNat)

/-- R201 (a), R94 stage 1: a fetch at 4095 or above latches `OutOfBounds` with op 0, whatever the bytes are. -/
def Obligations.FetchPastTheEndIsOutOfBounds : Prop :=
  ∀ s : State, s.faulted = false → memSize ≤ s.pc.toNat + 1 → step s = .next (s.outOfBoundsAt 0#16 s.pc)

/-- R204: an unknown opcode is latched with PC at the word and op the word, nothing else changed; the block stays halted
under `step`, and the host's `skip` moves past the word. -/
def Obligations.UnknownOpcodeIsLatchedAndCanBeSkipped : Prop :=
  ∀ s : State, s.faulted = false → s.pc.toNat + 1 < memSize → decodeWord s.wordAtPc = none →
    ∃ t : State, step s = .next t ∧
      t = { s with fault := { cause := .unknownOpcode, pc := s.pc, op := s.wordAtPc, addr := 0#16 } } ∧
      step t = .next t ∧ t.skipAccepted = true ∧
      t.skip = { s with pc := s.pc + 2#16, fault := FaultLatch.clear }

/-- R208: when a step raises a fault, the latch holds PC, the fetched word (0 where none was fetched) and the address of
`OutOfBounds` (else 0), the operation replies with the cause and no display change, and no other state changes. -/
def Obligations.FaultEntryIsPrecise : Prop :=
  ∀ s t : State, s.faulted = false → step s = .next t → t.faulted = true →
    t = { s with fault := t.fault } ∧ t.fault.pc = s.pc ∧
    t.fault.op = (if s.pc.toNat + 1 < memSize then s.wordAtPc else 0#16) ∧
    (t.fault.cause ≠ .outOfBounds → t.fault.addr = 0#16) ∧
    (t.fault.cause = .outOfBounds →
      t.fault.addr.toNat = max (if s.pc.toNat + 1 < memSize then s.i.toNat else s.pc.toNat) memSize) ∧
    stepReport s t = { displayModified := false, fault := t.fault.cause } ∧
    s.apply .step = .next (.live t, .stepped { displayModified := false, fault := t.fault.cause })

/-- R209: a faulted block's step changes nothing and replies with the report again; `tick` still counts down, `set_key`
still writes the latch, and all reads show the state. -/
def Obligations.FaultedBlockIsHalted : Prop :=
  ∀ s : State, s.faulted = true →
    step s = .next s ∧ stepReport s s = { displayModified := false, fault := s.fault.cause } ∧
    s.apply .step = .next (.live s, .stepped { displayModified := false, fault := s.fault.cause }) ∧
    (s.tick.dt.toNat = s.dt.toNat - 1 ∧ s.tick.st.toNat = s.st.toNat - 1 ∧ s.tick.fault = s.fault) ∧
    (∀ (k : Key) (p : Bool), (s.setKey k p).keyDown k.val = p ∧ (s.setKey k p).fault = s.fault) ∧
    s.apply .readState = .next (.live s, .state s)

/-- R207, R201, R202, R203: an executing instruction raises its own one fault on exactly these conditions, and no other
instruction raises any. -/
def Obligations.OnlyTheseInstructionsRaise : Prop :=
  ∀ (i : Instr) (s t : State), s.faulted = false → exec i s = .next t →
    (t.fault.cause = .stackOverflow ↔ s.sp.val = 16 ∧ ∃ nnn, i = .call nnn) ∧
    (t.fault.cause = .stackUnderflow ↔ s.sp.val = 0 ∧ i = .ret) ∧
    (t.fault.cause = .outOfBounds ↔
      (∃ x y n, i = .drw x y n ∧ n ≠ 0#4 ∧ memSize ≤ s.i.toNat + n.toNat - 1) ∨
      (∃ x, i = .ldB x ∧ memSize ≤ s.i.toNat + 2) ∨
      (∃ x, (i = .storeRegs x ∨ i = .loadRegs x) ∧ memSize ≤ s.i.toNat + x.val)) ∧
    t.fault.cause ≠ .unknownOpcode

/-- R94, R208: every step of every state answers a next state; the engine never stops the model. -/
def Obligations.EveryStepAnswersANextState : Prop :=
  ∀ s : State, ∃ t : State, step s = .next t

/-- R216, R94 stage 4, R217: the operation `step` makes the step and replies with its report, in every state; the report
names FAULT.cause after the step, and `display_modified` is true exactly when the step completed a `CLS` or a `DRW`. -/
def Obligations.DisplayModifiedExactlyForClsAndDrw : Prop :=
  (∀ s t : State, step s = .next t →
    s.apply .step = .next (.live t, .stepped (stepReport s t)) ∧ (stepReport s t).fault = t.fault.cause) ∧
  (∀ s t : State, s.faulted = false → step s = .next t →
    ((stepReport s t).displayModified = true ↔
      t.faulted = false ∧ s.pc.toNat + 1 < memSize ∧
        (decodeWord s.wordAtPc = some .cls ∨ ∃ x y n, decodeWord s.wordAtPc = some (.drw x y n))))

/-! ### Whole-machine rules (spec/10_state.md) -/

/-- R38: the invariant holds after reset. -/
def Obligations.ResetMeetsTheInvariant : Prop := State.reset.Inv

/-- R38: every step keeps the invariant, from every state that meets it. -/
def Obligations.EveryStepKeepsTheInvariant : Prop :=
  ∀ s t : State, s.Inv → step s = .next t → t.Inv

/-- R247, R38, R6, R36: whatever operations the host issues, in whatever order, from a block that was never reset, the
block is still never reset or its state meets the invariant and has the machine's configuration. -/
def Obligations.EveryOperationSequenceKeepsTheInvariant : Prop :=
  ∀ (c : Config) (ops : List HostOp) (b : Block), Block.run c ops .neverReset = .next b →
    b = .neverReset ∨ ∃ s : State, b = .live s ∧ s.Inv ∧ s.cfg = c

/-- R247, R217: on a block that has been reset every operation has a meaning, so every sequence of operations runs. -/
def Obligations.EveryOperationSequenceRuns : Prop :=
  ∀ (c : Config) (ops : List HostOp) (s : State), ∃ t : State, Block.run c ops (.live s) = .next (.live t)

/-- R21 to R29, R60: an instruction changes no part of the state but those `mayWrite` lists for it: only `CALL` and `RET`
touch SP and STACK, only `CLS` and `DRW` write FB, no instruction writes KEYS, only `LD DT,Vx` writes DT and `LD ST,Vx`
ST, only `LD B,Vx` and `LD [I],Vx` write memory. -/
def Obligations.InstructionsWriteOnlyTheirParts : Prop :=
  ∀ (i : Instr) (s t : State), exec i s = .next t → changesOnly (mayWrite i) s t

/-- R22: VF changes only by the listed flag writers and by an instruction that writes Vx with x = F. -/
def Obligations.OnlyListedInstructionsWriteVF : Prop :=
  ∀ (i : Instr) (s t : State), exec i s = .next t → t.reg VF ≠ s.reg VF → mayWriteVF s.cfg i = true

/-- R244 (c): at a self-jump, not faulted, a step leaves the whole state unchanged. -/
def Obligations.SelfJumpStepChangesNothing : Prop :=
  ∀ s : State, s.selfJump = true → step s = .next s

/-- R71, R213, R215: ticks and steps are independent, and so are key changes and steps: only the three timer moves tell a
tick before the step from one after it, and only the three input instructions a key change. The two runs compared start
at the same draw counter, so where the instruction is `RND` the claim is one for the same draw: that is the model's choice
(log entry 2), no rule of the spec. -/
def Obligations.TicksAndKeyChangesCommuteWithOtherSteps : Prop :=
  (∀ (s t : State), (∀ x, s.fetch ≠ .run (.ldVxDt x) ∧ s.fetch ≠ .run (.ldDtVx x) ∧ s.fetch ≠ .run (.ldStVx x)) →
    step s = .next t → step s.tick = .next t.tick) ∧
  (∀ (s t : State) (k : Key) (p : Bool),
    (∀ x, s.fetch ≠ .run (.skp x) ∧ s.fetch ≠ .run (.sknp x) ∧ s.fetch ≠ .run (.ldVxK x)) →
    step s = .next t → step (s.setKey k p) = .next (t.setKey k p))

/-! ### Memory (spec/20_memory.md) -/

/-- R68 (a): a read gives the last write to its cell and a write leaves every other cell; a write inside the array keeps
the canonical form; canonical memories that read alike are the same data. -/
def Obligations.MemoryReadsTheLastWrite : Prop :=
  (∀ (m : Memory) (a a' : Nat) (b : Byte), m.wf = true → a < memSize →
    (m.write a b).wf = true ∧ (m.write a b).read a' = if a' = a then b else m.read a') ∧
  (∀ m m' : Memory, m.wf = true → m'.wf = true → (∀ a : Nat, m.read a = m'.read a) → m = m')

/-- R69: bytes stored at the address of the next instruction are what the next fetch decodes: after `LD [I],V1` at PC
with I = PC + 2, the next step runs the instruction V0 and V1 spell. -/
def Obligations.StoreIsSeenByTheNextFetch : Prop :=
  ∀ (s : State) (i : Instr), s.mem.wf = true → s.faulted = false → s.i = s.pc + 2#16 → s.pc.toNat + 3 < memSize →
    decodeWord (wordOfBytes (s.reg 0) (s.reg 1)) = some i →
    ∃ t : State, exec (.storeRegs 1) s = .next t ∧ step t = exec i t

/-! ### Arithmetic and logic (spec/40_arithmetic_logic.md) -/

/-- R111, R113: the loads write Vx alone. -/
def Obligations.LoadsWriteVx : Prop :=
  (spells 0xF000#16 0x6000#16 fun w => .ldImm (fieldX w) (fieldKK w)) ∧
  (spells 0xF00F#16 0x8000#16 fun w => .ldReg (fieldX w) (fieldY w)) ∧
  (∀ (s : State) (x : Reg) (kk : Byte), ∃ t : State, exec (.ldImm x kk) s = .next t ∧
    (∀ r : Reg, t.reg r = if r = x then kk else s.reg r) ∧ t.pc = s.pc + 2#16 ∧ changesOnly [.regs, .pc] s t) ∧
  (∀ (s : State) (x y : Reg), ∃ t : State, exec (.ldReg x y) s = .next t ∧
    (∀ r : Reg, t.reg r = if r = x then s.reg y else s.reg r) ∧ t.pc = s.pc + 2#16 ∧ changesOnly [.regs, .pc] s t)

/-- R112: the immediate add wraps modulo 256 and writes no flag. -/
def Obligations.AddImmediateWrapsWithoutFlag : Prop :=
  (spells 0xF000#16 0x7000#16 fun w => .addImm (fieldX w) (fieldKK w)) ∧
  ∀ (s : State) (x : Reg) (kk : Byte), ∃ t : State, exec (.addImm x kk) s = .next t ∧
    (t.reg x).toNat = ((s.reg x).toNat + kk.toNat) % 256 ∧ (∀ r : Reg, r ≠ x → t.reg r = s.reg r) ∧
    t.pc = s.pc + 2#16 ∧ changesOnly [.regs, .pc] s t

/-- R114, R115, R116: the bitwise result goes to Vx, bit by bit; then VF is cleared exactly under the quirk. -/
def Obligations.LogicWritesVxThenQuirkClearsVF : Prop :=
  (spells 0xF00F#16 0x8001#16 fun w => .or (fieldX w) (fieldY w)) ∧
  (spells 0xF00F#16 0x8002#16 fun w => .and (fieldX w) (fieldY w)) ∧
  (spells 0xF00F#16 0x8003#16 fun w => .xor (fieldX w) (fieldY w)) ∧
  (∀ (s : State) (x y : Reg), ∃ t : State, exec (.or x y) s = .next t ∧ logicEffect Bool.or x y s t) ∧
  (∀ (s : State) (x y : Reg), ∃ t : State, exec (.and x y) s = .next t ∧ logicEffect Bool.and x y s t) ∧
  (∀ (s : State) (x y : Reg), ∃ t : State, exec (.xor x y) s = .next t ∧ logicEffect Bool.xor x y s t)

/-- R117: the sum modulo 256 goes to Vx, then the carry to VF, which survives where x is F. -/
def Obligations.AddRegistersWrapsAndCarries : Prop :=
  (spells 0xF00F#16 0x8004#16 fun w => .addReg (fieldX w) (fieldY w)) ∧
  ∀ (s : State) (x y : Reg), ∃ t : State, exec (.addReg x y) s = .next t ∧
    (∀ r : Reg, (t.reg r).toNat =
      if r = VF then (if 255 < (s.reg x).toNat + (s.reg y).toNat then 1 else 0)
      else if r = x then ((s.reg x).toNat + (s.reg y).toNat) % 256 else (s.reg r).toNat) ∧
    t.pc = s.pc + 2#16 ∧ changesOnly [.regs, .pc] s t

/-- R118, R120: the difference, plus 256 on a borrow, goes to Vx, then "no borrow" to VF. -/
def Obligations.SubtractionsWrapAndFlagNoBorrow : Prop :=
  (spells 0xF00F#16 0x8005#16 fun w => .sub (fieldX w) (fieldY w)) ∧
  (spells 0xF00F#16 0x8007#16 fun w => .subn (fieldX w) (fieldY w)) ∧
  (∀ (s : State) (x y : Reg), ∃ t : State, exec (.sub x y) s = .next t ∧
    differenceEffect (s.reg x) (s.reg y) x s t) ∧
  (∀ (s : State) (x y : Reg), ∃ t : State, exec (.subn x y) s = .next t ∧
    differenceEffect (s.reg y) (s.reg x) x s t)

/-- R119: bit 0 of the shifted register goes to VF first; then Vx takes half of that register as it then stands. -/
def Obligations.ShiftRightFlagsThenShifts : Prop :=
  (spells 0xF00F#16 0x8006#16 fun w => .shr (fieldX w) (fieldY w)) ∧
  ∀ (s : State) (x y src : Reg), src = (if s.cfg.quirkShiftUsesVy then y else x) →
    ∃ t : State, exec (.shr x y) s = .next t ∧
      (∀ r : Reg, (t.reg r).toNat =
        if r = x then (if src = VF then (s.reg src).toNat % 2 else (s.reg src).toNat) / 2
        else if r = VF then (s.reg src).toNat % 2 else (s.reg r).toNat) ∧
      t.pc = s.pc + 2#16 ∧ changesOnly [.regs, .pc] s t

/-- R121: bit 7 of the shifted register goes to VF first; then Vx takes twice that register as it then stands, modulo
256. -/
def Obligations.ShiftLeftFlagsThenShifts : Prop :=
  (spells 0xF00F#16 0x800E#16 fun w => .shl (fieldX w) (fieldY w)) ∧
  ∀ (s : State) (x y src : Reg), src = (if s.cfg.quirkShiftUsesVy then y else x) →
    ∃ t : State, exec (.shl x y) s = .next t ∧
      (∀ r : Reg, (t.reg r).toNat =
        if r = x then 2 * (if src = VF then (s.reg src).toNat / 128 else (s.reg src).toNat) % 256
        else if r = VF then (s.reg src).toNat / 128 else (s.reg r).toNat) ∧
      t.pc = s.pc + 2#16 ∧ changesOnly [.regs, .pc] s t

/-- R122: Vx takes a drawn byte AND kk. The byte is the free value at the draw counter (log entry 2), which advances; the
statement holds for every value of either. -/
def Obligations.RandomByteIsMasked : Prop :=
  (spells 0xF000#16 0xC000#16 fun w => .rnd (fieldX w) (fieldKK w)) ∧
  ∀ (s : State) (x : Reg) (kk : Byte), ∃ (t : State) (d : Byte), exec (.rnd x kk) s = .next t ∧
    d = Config.rnd s.draws ∧ t.draws = s.draws + 1 ∧
    (∀ r : Reg, t.reg r = if r = x then d &&& kk else s.reg r) ∧ t.reg x &&& ~~~kk = 0#8 ∧
    t.pc = s.pc + 2#16 ∧ changesOnly [.regs, .pc, .draws] s t

/-! ### Control flow (spec/41_control_flow.md) -/

/-- R131: `RET` pops the address on top of the stack into PC, or raises `StackUnderflow` on an empty stack. -/
def Obligations.ReturnPopsOrUnderflows : Prop :=
  (spells 0xFFFF#16 0x00EE#16 fun _ => .ret) ∧
  (∀ (s : State) (k : Fin 16), s.sp.val = k.val + 1 → ∃ t : State, exec .ret s = .next t ∧
    t.sp.val = k.val ∧ t.pc = s.stack[k] ∧ changesOnly [.sp, .pc] s t) ∧
  (∀ s : State, s.sp.val = 0 → exec .ret s =
    .next { s with fault := { cause := .stackUnderflow, pc := s.pc, op := 0x00EE#16, addr := 0#16 } })

/-- R133, R202: `CALL` pushes PC + 2 and jumps, or raises `StackOverflow` on a full stack. -/
def Obligations.CallPushesOrOverflows : Prop :=
  (spells 0xF000#16 0x2000#16 fun w => .call (fieldNNN w)) ∧
  (∀ (s : State) (nnn : Addr12), s.sp.val < 16 → ∃ t : State, exec (.call nnn) s = .next t ∧
    t.sp.val = s.sp.val + 1 ∧ t.pc.toNat = nnn.toNat ∧
    (∀ k : Fin 16, t.stack[k] = if k.val = s.sp.val then s.pc + 2#16 else s.stack[k]) ∧
    changesOnly [.sp, .stack, .pc] s t) ∧
  (∀ (s : State) (nnn : Addr12), s.sp.val = 16 → exec (.call nnn) s =
    .next { s with fault := { cause := .stackOverflow, pc := s.pc, op := 0x2#4 ++ nnn, addr := 0#16 } })

/-- R139, R131, R133: a matched `CALL` and `RET` come back to the address after the call at the depth before it, the
entries in use kept. -/
def Obligations.CallThenReturnComesBack : Prop :=
  ∀ (s : State) (nnn : Addr12), s.sp.val < 16 → ∃ t u : State, exec (.call nnn) s = .next t ∧ exec .ret t = .next u ∧
    u.sp = s.sp ∧ u.pc = s.pc + 2#16 ∧ (∀ k : Fin 16, k.val < s.sp.val → u.stack[k] = s.stack[k]) ∧
    changesOnly [.pc, .stack] s u

/-- R132, R138: the jumps set PC to nnn, and to nnn plus V0 without reduction to 12 bits. -/
def Obligations.JumpsSetPc : Prop :=
  (spells 0xF000#16 0x1000#16 fun w => .jp (fieldNNN w)) ∧
  (spells 0xF000#16 0xB000#16 fun w => .jpV0 (fieldNNN w)) ∧
  (∀ (s : State) (nnn : Addr12), ∃ t : State, exec (.jp nnn) s = .next t ∧ t.pc.toNat = nnn.toNat ∧
    changesOnly [.pc] s t) ∧
  (∀ (s : State) (nnn : Addr12), ∃ t : State, exec (.jpV0 nnn) s = .next t ∧
    t.pc.toNat = nnn.toNat + (s.reg 0).toNat ∧ changesOnly [.pc] s t)

/-- R134 to R137: a skip adds 4 to PC where its condition holds and 2 where it does not, and changes nothing else. -/
def Obligations.RegisterSkipsAddFourOrTwo : Prop :=
  (spells 0xF000#16 0x3000#16 fun w => .seImm (fieldX w) (fieldKK w)) ∧
  (spells 0xF000#16 0x4000#16 fun w => .sneImm (fieldX w) (fieldKK w)) ∧
  (spells 0xF00F#16 0x5000#16 fun w => .seReg (fieldX w) (fieldY w)) ∧
  (spells 0xF00F#16 0x9000#16 fun w => .sneReg (fieldX w) (fieldY w)) ∧
  (∀ (s : State) (x : Reg) (kk : Byte), ∃ t : State, exec (.seImm x kk) s = .next t ∧
    t.pc = (if s.reg x = kk then s.pc + 4#16 else s.pc + 2#16) ∧ changesOnly [.pc] s t) ∧
  (∀ (s : State) (x : Reg) (kk : Byte), ∃ t : State, exec (.sneImm x kk) s = .next t ∧
    t.pc = (if s.reg x ≠ kk then s.pc + 4#16 else s.pc + 2#16) ∧ changesOnly [.pc] s t) ∧
  (∀ (s : State) (x y : Reg), ∃ t : State, exec (.seReg x y) s = .next t ∧
    t.pc = (if s.reg x = s.reg y then s.pc + 4#16 else s.pc + 2#16) ∧ changesOnly [.pc] s t) ∧
  (∀ (s : State) (x y : Reg), ∃ t : State, exec (.sneReg x y) s = .next t ∧
    t.pc = (if s.reg x ≠ s.reg y then s.pc + 4#16 else s.pc + 2#16) ∧ changesOnly [.pc] s t)

/-! ### Index register (spec/42_memory_index.md) -/

/-- R145, R146, R147: I takes nnn; the sum with Vx modulo 65536; the address of the glyph of Vx's low digit. -/
def Obligations.IndexInstructionsSetI : Prop :=
  (spells 0xF000#16 0xA000#16 fun w => .ldI (fieldNNN w)) ∧
  (spells 0xF0FF#16 0xF01E#16 fun w => .addI (fieldX w)) ∧
  (spells 0xF0FF#16 0xF029#16 fun w => .ldF (fieldX w)) ∧
  (∀ (s : State) (nnn : Addr12), ∃ t : State, exec (.ldI nnn) s = .next t ∧ t.i.toNat = nnn.toNat ∧
    t.pc = s.pc + 2#16 ∧ changesOnly [.index, .pc] s t) ∧
  (∀ (s : State) (x : Reg), ∃ t : State, exec (.addI x) s = .next t ∧
    t.i.toNat = (s.i.toNat + (s.reg x).toNat) % 65536 ∧ t.pc = s.pc + 2#16 ∧ changesOnly [.index, .pc] s t) ∧
  (∀ (s : State) (x : Reg), ∃ t : State, exec (.ldF x) s = .next t ∧
    t.i.toNat = 5 * ((s.reg x).toNat % 16) ∧ t.pc = s.pc + 2#16 ∧ changesOnly [.index, .pc] s t)

/-! ### Display (spec/43_display.md) -/

/-- R151: `CLS` clears every pixel, writes no flag, and its step replies with a display change. -/
def Obligations.ClearTurnsEveryPixelOff : Prop :=
  (spells 0xFFFF#16 0x00E0#16 fun _ => .cls) ∧
  (∀ s : State, ∃ t : State, exec .cls s = .next t ∧
    (∀ px py : Nat, px < 64 → py < 32 → t.fb.pixel px py = false) ∧ t.pc = s.pc + 2#16 ∧
    changesOnly [.fb, .pc] s t) ∧
  (∀ s t : State, s.fetch = .run .cls → step s = .next t →
    stepReport s t = { displayModified := true, fault := .none } ∧
      s.apply .step = .next (.live t, .stepped { displayModified := true, fault := .none }))

/-- R152, R150: `DRW` checks its range first; then it inverts exactly the pixels under the sprite's 1 bits, with
wrap-around from coordinates read before VF is written, and VF is 1 exactly when one of them was on; its step replies
with a display change. -/
def Obligations.DrawInvertsCoveredPixelsAndFlagsCollision : Prop :=
  (spells 0xF000#16 0xD000#16 fun w => .drw (fieldX w) (fieldY w) (fieldN w)) ∧
  (∀ (s : State) (x y : Reg) (n : Nibble), (n = 0#4 ∨ s.i.toNat + n.toNat - 1 < memSize) →
    ∃ t : State, exec (.drw x y n) s = .next t ∧
      (∀ px py : Nat, px < 64 → py < 32 → (t.fb.pixel px py = true ↔ (s.fb.pixel px py = true ↔
        ¬ covers s.mem s.i.toNat n.toNat ((s.reg x).toNat % 64) ((s.reg y).toNat % 32) px py))) ∧
      (t.reg VF = 0#8 ∨ t.reg VF = 1#8) ∧
      (t.reg VF = 1#8 ↔ ∃ px py : Nat, px < 64 ∧ py < 32 ∧
        covers s.mem s.i.toNat n.toNat ((s.reg x).toNat % 64) ((s.reg y).toNat % 32) px py ∧
        s.fb.pixel px py = true) ∧
      (∀ r : Reg, r ≠ VF → t.reg r = s.reg r) ∧ t.pc = s.pc + 2#16 ∧ changesOnly [.regs, .fb, .pc] s t) ∧
  (∀ (s : State) (x y : Reg) (n : Nibble), n ≠ 0#4 → memSize ≤ s.i.toNat + n.toNat - 1 →
    exec (.drw x y n) s = .next (s.outOfBoundsAt (encode (.drw x y n)) s.i)) ∧
  (∀ (s t : State) (x y : Reg) (n : Nibble), s.fetch = .run (.drw x y n) → step s = .next t → t.faulted = false →
    stepReport s t = { displayModified := true, fault := .none } ∧
      s.apply .step = .next (.live t, .stepped { displayModified := true, fault := .none }))

/-- R152: the same sprite drawn twice at the same coordinates restores the framebuffer; on a cleared one the first draw
reports no collision, and the second a collision exactly when the sprite has a 1 bit. -/
def Obligations.DrawingTwiceRestoresTheFramebuffer : Prop :=
  ∀ (s : State) (x y : Reg) (n : Nibble), x ≠ VF → y ≠ VF → (n = 0#4 ∨ s.i.toNat + n.toNat - 1 < memSize) →
    ∃ t u : State, exec (.drw x y n) s = .next t ∧ exec (.drw x y n) t = .next u ∧ u.fb = s.fb ∧
      ((∀ px py : Nat, px < 64 → py < 32 → s.fb.pixel px py = false) →
        t.reg VF = 0#8 ∧ (u.reg VF = 1#8 ↔ ∃ r : Nat, r < n.toNat ∧ s.mem.read (s.i.toNat + r) ≠ 0#8))

/-! ### Timers (spec/44_timer.md, spec/60_exceptions.md R213, R214) -/

/-- R155, R156, R157: the timer moves; the sound output follows ST at once. -/
def Obligations.TimerMovesCopyTheByte : Prop :=
  (spells 0xF0FF#16 0xF007#16 fun w => .ldVxDt (fieldX w)) ∧
  (spells 0xF0FF#16 0xF015#16 fun w => .ldDtVx (fieldX w)) ∧
  (spells 0xF0FF#16 0xF018#16 fun w => .ldStVx (fieldX w)) ∧
  (∀ (s : State) (x : Reg), ∃ t : State, exec (.ldVxDt x) s = .next t ∧
    (∀ r : Reg, t.reg r = if r = x then s.dt else s.reg r) ∧ t.pc = s.pc + 2#16 ∧ changesOnly [.regs, .pc] s t) ∧
  (∀ (s : State) (x : Reg), ∃ t : State, exec (.ldDtVx x) s = .next t ∧ t.dt = s.reg x ∧ t.pc = s.pc + 2#16 ∧
    changesOnly [.dt, .pc] s t ∧ (∀ k : Nat, (t.ticks k).dt.toNat = (s.reg x).toNat - k)) ∧
  (∀ (s : State) (x : Reg), ∃ t : State, exec (.ldStVx x) s = .next t ∧ t.st = s.reg x ∧ t.pc = s.pc + 2#16 ∧
    changesOnly [.st, .pc] s t ∧ (t.soundActive = true ↔ s.reg x ≠ 0#8))

/-- R213: a tick takes 1 from each timer that is not 0 and changes nothing else, faulted or not; after k ticks a timer
that held v holds v - k, never below 0. -/
def Obligations.TicksCountDownToZero : Prop :=
  (∀ s : State, s.apply .tick = .next (.live s.tick, .done) ∧
    s.tick.dt.toNat = s.dt.toNat - 1 ∧ s.tick.st.toNat = s.st.toNat - 1 ∧ changesOnly [.dt, .st] s s.tick) ∧
  (∀ (s : State) (k : Nat), (s.ticks k).dt.toNat = s.dt.toNat - k ∧ (s.ticks k).st.toNat = s.st.toNat - k ∧
    changesOnly [.dt, .st] s (s.ticks k))

/-- R214: the sound output is `ST != 0` at the moment it is read, and reading changes nothing. -/
def Obligations.SoundIsActiveWhileStIsNonzero : Prop :=
  ∀ s : State, ∃ a : Bool, s.apply .readSoundActive = .next (.live s, .sound a) ∧ (a = true ↔ s.st.toNat ≠ 0)

/-! ### Input (spec/45_input.md, spec/60_exceptions.md R215) -/

/-- R160, R161: the key of Vx's low digit decides the skip. -/
def Obligations.KeySkipsTestTheLatch : Prop :=
  (spells 0xF0FF#16 0xE09E#16 fun w => .skp (fieldX w)) ∧
  (spells 0xF0FF#16 0xE0A1#16 fun w => .sknp (fieldX w)) ∧
  (∀ (s : State) (x : Reg), ∃ t : State, exec (.skp x) s = .next t ∧
    t.pc = (if s.keys.getLsbD ((s.reg x).toNat % 16) = true then s.pc + 4#16 else s.pc + 2#16) ∧
    changesOnly [.pc] s t) ∧
  (∀ (s : State) (x : Reg), ∃ t : State, exec (.sknp x) s = .next t ∧
    t.pc = (if s.keys.getLsbD ((s.reg x).toNat % 16) = false then s.pc + 4#16 else s.pc + 2#16) ∧
    changesOnly [.pc] s t)

/-- R162: with no key pressed `LD Vx,K` changes nothing; with keys pressed it stores one of them, the smallest under the
default `KEY_PICK`, and goes on. -/
def Obligations.KeyWaitEndsWithAPressedKey : Prop :=
  (spells 0xF0FF#16 0xF00A#16 fun w => .ldVxK (fieldX w)) ∧
  (∀ (s : State) (x : Reg), (∀ k : Key, s.keys.getLsbD k.val = false) → exec (.ldVxK x) s = .next s) ∧
  (∀ (s : State) (x : Reg) (j : Key), s.keys.getLsbD j.val = true →
    ∃ (t : State) (k : Key), exec (.ldVxK x) s = .next t ∧ s.keys.getLsbD k.val = true ∧
      (s.cfg.keyPick = .lowest → k ≤ j) ∧
      (∀ r : Reg, (t.reg r).toNat = if r = x then k.val else (s.reg r).toNat) ∧ t.pc = s.pc + 2#16 ∧
      changesOnly [.regs, .pc] s t)

/-- R215: `set_key` writes one key of the latch and nothing else. -/
def Obligations.SetKeyWritesOneKey : Prop :=
  ∀ (s : State) (k : Key) (p : Bool), s.apply (.setKey k p) = .next (.live (s.setKey k p), .done) ∧
    (∀ j : Key, (s.setKey k p).keys.getLsbD j.val = if j = k then p else s.keys.getLsbD j.val) ∧
    changesOnly [.keys] s (s.setKey k p)

/-! ### BCD and register arrays (spec/46_bcd_array.md) -/

/-- R165: `LD B,Vx` stores the three digits at I, I + 1, I + 2 and leaves every other byte, or raises `OutOfBounds`
having stored nothing. -/
def Obligations.BcdStoreWritesThreeDigits : Prop :=
  (spells 0xF0FF#16 0xF033#16 fun w => .ldB (fieldX w)) ∧
  (∀ (s : State) (x : Reg), s.mem.wf = true → s.i.toNat + 2 < memSize → ∃ t : State, exec (.ldB x) s = .next t ∧
    (t.mem.read s.addrI).toNat = (s.reg x).toNat / 100 ∧
    (t.mem.read (s.addrI + 1)).toNat = (s.reg x).toNat / 10 % 10 ∧
    (t.mem.read (s.addrI + 2)).toNat = (s.reg x).toNat % 10 ∧
    (∀ a : Nat, a < s.addrI ∨ s.addrI + 2 < a → t.mem.read a = s.mem.read a) ∧
    t.pc = s.pc + 2#16 ∧ changesOnly [.mem, .pc] s t) ∧
  (∀ (s : State) (x : Reg), memSize ≤ s.i.toNat + 2 →
    exec (.ldB x) s = .next (s.outOfBoundsAt (encode (.ldB x)) s.i))

/-- R166: `LD [I],Vx` stores V0 to Vx at ascending addresses from I and leaves every other byte; I advances exactly under
the quirk; past the end it raises `OutOfBounds` having stored nothing. -/
def Obligations.ArrayStoreWritesTheRange : Prop :=
  (spells 0xF0FF#16 0xF055#16 fun w => .storeRegs (fieldX w)) ∧
  (∀ (s : State) (x : Reg), s.mem.wf = true → s.i.toNat + x.val < memSize →
    ∃ t : State, exec (.storeRegs x) s = .next t ∧
      (∀ k : Reg, k ≤ x → t.mem.read (s.addrI + k.val) = s.reg k) ∧
      (∀ a : Nat, a < s.addrI ∨ s.addrI + x.val < a → t.mem.read a = s.mem.read a) ∧
      t.i.toNat = (if s.cfg.quirkLoadstoreIncI then (s.i.toNat + x.val + 1) % 65536 else s.i.toNat) ∧
      t.pc = s.pc + 2#16 ∧ changesOnly [.mem, .index, .pc] s t) ∧
  (∀ (s : State) (x : Reg), memSize ≤ s.i.toNat + x.val →
    exec (.storeRegs x) s = .next (s.outOfBoundsAt (encode (.storeRegs x)) s.i))

/-- R167: `LD Vx,[I]` loads V0 to Vx from ascending addresses from I and leaves the registers above Vx; I advances
exactly under the quirk; past the end it raises `OutOfBounds` having loaded nothing. -/
def Obligations.ArrayLoadReadsTheRange : Prop :=
  (spells 0xF0FF#16 0xF065#16 fun w => .loadRegs (fieldX w)) ∧
  (∀ (s : State) (x : Reg), s.i.toNat + x.val < memSize →
    ∃ t : State, exec (.loadRegs x) s = .next t ∧
      (∀ r : Reg, t.reg r = if r ≤ x then s.mem.read (s.i.toNat + r.val) else s.reg r) ∧
      t.i.toNat = (if s.cfg.quirkLoadstoreIncI then (s.i.toNat + x.val + 1) % 65536 else s.i.toNat) ∧
      t.pc = s.pc + 2#16 ∧ changesOnly [.regs, .index, .pc] s t) ∧
  (∀ (s : State) (x : Reg), memSize ≤ s.i.toNat + x.val →
    exec (.loadRegs x) s = .next (s.outOfBoundsAt (encode (.loadRegs x)) s.i))

/-- R166, R167: what an array store wrote, an array load from the same I brings back, whatever the registers held in
between. -/
def Obligations.ArrayLoadUndoesArrayStore : Prop :=
  ∀ (s : State) (x : Reg) (v : Vector Byte 16), s.mem.wf = true → s.i.toNat + x.val < memSize →
    ∃ t u : State, exec (.storeRegs x) s = .next t ∧ exec (.loadRegs x) { t with v := v, i := s.i } = .next u ∧
      (∀ r : Reg, r ≤ x → u.reg r = s.reg r) ∧ (∀ r : Reg, x < r → u.reg r = v[r])

/-! ### Reset, load and the host interface (spec/70_reset_and_hazards.md, spec/60_exceptions.md R210, R216, R217) -/

/-- R34, R72: what reset leaves, the font byte by byte: glyph d at 5 * d, the top row first. -/
def Obligations.ResetStateIsAsListed : Prop :=
  (∀ r : Reg, State.reset.reg r = 0x00#8) ∧ State.reset.i = 0x0000#16 ∧ State.reset.pc = 0x0200#16 ∧
  State.reset.sp = 0 ∧ (∀ k : Fin 16, State.reset.stack[k] = 0x0000#16) ∧ State.reset.dt = 0x00#8 ∧
  State.reset.st = 0x00#8 ∧ (∀ px py : Nat, px < 64 → py < 32 → State.reset.fb.pixel px py = false) ∧
  (∀ k : Key, State.reset.keys.getLsbD k.val = false) ∧
  (∀ (d : Fin 16) (k : Fin 5), State.reset.mem.read (5 * d.val + k.val) =
    (#v[
      #v[0xF0#8, 0x90#8, 0x90#8, 0x90#8, 0xF0#8], #v[0x20#8, 0x60#8, 0x20#8, 0x20#8, 0x70#8],
      #v[0xF0#8, 0x10#8, 0xF0#8, 0x80#8, 0xF0#8], #v[0xF0#8, 0x10#8, 0xF0#8, 0x10#8, 0xF0#8],
      #v[0x90#8, 0x90#8, 0xF0#8, 0x10#8, 0x10#8], #v[0xF0#8, 0x80#8, 0xF0#8, 0x10#8, 0xF0#8],
      #v[0xF0#8, 0x80#8, 0xF0#8, 0x90#8, 0xF0#8], #v[0xF0#8, 0x10#8, 0x20#8, 0x40#8, 0x40#8],
      #v[0xF0#8, 0x90#8, 0xF0#8, 0x90#8, 0xF0#8], #v[0xF0#8, 0x90#8, 0xF0#8, 0x10#8, 0xF0#8],
      #v[0xF0#8, 0x90#8, 0xF0#8, 0x90#8, 0x90#8], #v[0xE0#8, 0x90#8, 0xE0#8, 0x90#8, 0xE0#8],
      #v[0xF0#8, 0x80#8, 0x80#8, 0x80#8, 0xF0#8], #v[0xE0#8, 0x90#8, 0x90#8, 0x90#8, 0xE0#8],
      #v[0xF0#8, 0x80#8, 0xF0#8, 0x80#8, 0xF0#8], #v[0xF0#8, 0x80#8, 0xF0#8, 0x80#8, 0x80#8]] : Vector (Vector Byte 5) 16)[d][k]) ∧
  (∀ a : Nat, 80 ≤ a → a < memSize → State.reset.mem.read a = 0x00#8) ∧
  State.reset.fault = { cause := .none, pc := 0#16, op := 0#16, addr := 0#16 } ∧ State.reset.soundActive = false

/-- R240, R6: `reset` is accepted in every state and before the first reset, leaves the state of R34 and the
configuration, and leaves no program: the next step raises `UnknownOpcode` with op 0. Nothing is said of the draw counter,
the model's own (log entry 2). -/
def Obligations.ResetOperationIsTotal : Prop :=
  (∀ s : State, ∃ t u : State, s.apply .reset = .next (.live t, .done) ∧
    changesOnly [.draws] { State.reset with cfg := s.cfg } t ∧ step t = .next u ∧
    u.fault = { cause := .unknownOpcode, pc := 0x0200#16, op := 0x0000#16, addr := 0#16 }) ∧
  (∀ c : Config, ∃ t : State, Block.apply c .neverReset .reset = .next (.live t, .done) ∧
    changesOnly [.draws] { State.reset with cfg := c } t)

/-- R241, R73: a ROM of at most 3584 bytes replaces the whole state by the reset state with its bytes from 0x200, on a
block in any state and on one never reset; a longer one is refused and changes nothing. -/
def Obligations.LoadPlacesTheRomOrChangesNothing : Prop :=
  (∀ (s : State) (rom : List Byte), rom.length ≤ 3584 → ∃ t : State, s.apply (.load rom) = .next (.live t, .loaded) ∧
    (∀ a : Nat, a < memSize → t.mem.read a =
      if 0x200 ≤ a ∧ a < 0x200 + rom.length then rom.getD (a - 0x200) 0#8 else State.reset.mem.read a) ∧
    changesOnly [.mem, .draws] { State.reset with cfg := s.cfg } t) ∧
  (∀ (s : State) (rom : List Byte), 3584 < rom.length → s.apply (.load rom) = .next (.live s, .romTooLarge)) ∧
  (∀ (c : Config) (rom : List Byte), 3584 < rom.length →
    Block.apply c .neverReset (.load rom) = .next (.neverReset, .romTooLarge)) ∧
  (∀ (c : Config) (rom : List Byte), rom.length ≤ 3584 → ∃ t : State,
    Block.apply c .neverReset (.load rom) = .next (.live t, .loaded) ∧
    (∀ a : Nat, a < memSize → t.mem.read a =
      if 0x200 ≤ a ∧ a < 0x200 + rom.length then rom.getD (a - 0x200) 0#8 else State.reset.mem.read a) ∧
    changesOnly [.mem, .draws] { State.reset with cfg := c } t)

/-- R36: on a block that was never reset every operation but `reset` and `load` is refused by name. -/
def Obligations.NeverResetBlockRefuses : Prop :=
  ∀ (c : Config) (op : HostOp), op ≠ .reset → (∀ rom, op ≠ .load rom) →
    Block.apply c .neverReset op = .refused .neverReset

/-- R210: `skip` is accepted exactly after `UnknownOpcode`; it then adds 2 to PC and clears the latch, and else changes
nothing. A fatal fault stays latched under every operation but `reset` and a successful `load`, and these two leave it. -/
def Obligations.FaultIsLeftOnlyBySkipResetOrLoad : Prop :=
  (∀ s : State, s.fault.cause = .unknownOpcode → s.apply .skip =
    .next (.live { s with pc := s.pc + 2#16, fault := FaultLatch.clear }, .skipAccepted)) ∧
  (∀ s : State, s.fault.cause ≠ .unknownOpcode → s.apply .skip = .next (.live s, .skipRefused)) ∧
  (∀ (s : State) (op : HostOp), s.faulted = true → s.fault.cause ≠ .unknownOpcode → op ≠ .reset →
    (∀ rom : List Byte, op = .load rom → 3584 < rom.length) →
    ∃ (t : State) (r : HostReply), s.apply op = .next (.live t, r) ∧ t.fault = s.fault) ∧
  (∀ s : State, ∃ t : State, s.apply .reset = .next (.live t, .done) ∧ t.faulted = false) ∧
  (∀ (s : State) (rom : List Byte), rom.length ≤ 3584 →
    ∃ t : State, s.apply (.load rom) = .next (.live t, .loaded) ∧ t.faulted = false)

/-- R35, R28, R216: the reads change nothing; element `y * 64 + x` of the snapshot is the pixel of column x, row y. -/
def Obligations.ReadsHaveNoSideEffect : Prop :=
  ∀ s : State, s.apply .readState = .next (.live s, .state s) ∧
    ∃ pixels : List Bool, s.apply .readFramebuffer = .next (.live s, .framebuffer pixels) ∧ pixels.length = 2048 ∧
      ∀ px py : Nat, px < 64 → py < 32 → pixels[py * 64 + px]? = some (s.fb.pixel px py)

/-! ### Added after the review -/

/-- R31, R200: the numeric codes of `FAULT.cause`, 3 bits; 5 to 7 never occur. -/
def Obligations.FaultCausesHaveTheListedCodes : Prop :=
  FaultCause.none.code = 0#3 ∧ FaultCause.outOfBounds.code = 1#3 ∧ FaultCause.stackOverflow.code = 2#3 ∧
  FaultCause.stackUnderflow.code = 3#3 ∧ FaultCause.unknownOpcode.code = 4#3 ∧
  (∀ s : State, s.fault.cause.code.toNat ≤ 4) ∧ (∀ s : State, s.faulted = true ↔ s.fault.cause.code ≠ 0#3)

/-- R38, R6, R247: every operation of the host on a live block leaves a live block, keeps the invariant, from every state
that meets it, and keeps the configuration. -/
def Obligations.EveryOperationKeepsTheInvariant : Prop :=
  ∀ (s : State) (op : HostOp) (b : Block) (r : HostReply), s.Inv → s.apply op = .next (b, r) →
    ∃ t : State, b = .live t ∧ t.Inv ∧ t.cfg = s.cfg
end

