-- ==== Sys2Proof/Laws/Memory.lean ====
section
/-! SUPPORT. The laws of the memory operations: a read after a write, the canonical form, and sequences of bytes. -/

namespace Sys2Proof.Machine

/-! ### The canonical form -/

theorem Memory.wfFrom_cons {lo a : Nat} {b : Byte} {m : Memory} :
    Memory.wfFrom lo ((a, b) :: m) = true ↔
      lo ≤ a ∧ a < memSize ∧ b ≠ resetByte a ∧ Memory.wfFrom (a + 1) m = true := by
  simp [Memory.wfFrom, and_assoc]

theorem Memory.wfFrom_mono {lo lo' : Nat} {m : Memory} (h : lo' ≤ lo) (hm : Memory.wfFrom lo m = true) :
    Memory.wfFrom lo' m = true := by
  cases m with
  | nil => rfl
  | cons c m =>
    obtain ⟨a, b⟩ := c
    rw [Memory.wfFrom_cons] at hm ⊢
    exact ⟨h.trans hm.1, hm.2⟩

/-- Below its bound a canonical list lists nothing. -/
theorem Memory.read_of_lt {lo a : Nat} {m : Memory} (hm : Memory.wfFrom lo m = true) (h : a < lo) :
    Memory.read m a = resetByte a := by
  induction m generalizing lo with
  | nil => rfl
  | cons c m ih =>
    obtain ⟨a', b'⟩ := c
    rw [Memory.wfFrom_cons] at hm
    rw [Memory.read, if_neg (by omega)]
    exact ih hm.2.2.2 (by omega)

theorem Memory.wfFrom_consCell {lo a : Nat} {b : Byte} {m : Memory} (hlo : lo ≤ a) (ha : a < memSize)
    (hm : Memory.wfFrom (a + 1) m = true) : Memory.wfFrom lo (Memory.cons a b m) = true := by
  unfold Memory.cons
  split
  · exact Memory.wfFrom_mono (by omega) hm
  · exact Memory.wfFrom_cons.2 ⟨hlo, ha, ‹_›, hm⟩

theorem Memory.wfFrom_write {lo a : Nat} {b : Byte} {m : Memory} (hlo : lo ≤ a) (ha : a < memSize)
    (hm : Memory.wfFrom lo m = true) : Memory.wfFrom lo (Memory.write m a b) = true := by
  induction m generalizing lo with
  | nil => exact Memory.wfFrom_consCell hlo ha rfl
  | cons c m ih =>
    obtain ⟨a', b'⟩ := c
    have h := Memory.wfFrom_cons.1 hm
    rw [Memory.write]
    split
    · exact Memory.wfFrom_consCell hlo ha (Memory.wfFrom_cons.2 ⟨by omega, h.2⟩)
    · split
      · subst a'
        exact Memory.wfFrom_consCell hlo ha h.2.2.2
      · exact Memory.wfFrom_cons.2 ⟨h.1, h.2.1, h.2.2.1, ih (by omega) h.2.2.2⟩

/-- A write inside the array keeps the canonical form. -/
theorem Memory.wf_write {m : Memory} {a : Nat} (b : Byte) (ha : a < memSize) (hm : m.wf = true) :
    (m.write a b).wf = true := Memory.wfFrom_write (Nat.zero_le a) ha hm

/-- Bytes stored inside the array keep the canonical form. -/
theorem Memory.wf_writeBytes {m : Memory} {a : Nat} {bs : List Byte} (ha : a + bs.length ≤ memSize)
    (hm : m.wf = true) : (m.writeBytes a bs).wf = true := by
  induction bs generalizing m a with
  | nil => exact hm
  | cons b bs ih =>
    rw [List.length_cons] at ha
    exact ih (by omega) (Memory.wf_write b (by omega) hm)

/-! ### Reading and writing one byte -/

theorem Memory.read_cons {a a' : Nat} {b : Byte} {m : Memory} (hm : Memory.wfFrom (a + 1) m = true) :
    Memory.read (Memory.cons a b m) a' = if a' = a then b else Memory.read m a' := by
  unfold Memory.cons
  split
  · split
    · subst a'
      rw [Memory.read_of_lt hm (by omega)]
      exact Eq.symm ‹_›
    · rfl
  · rw [Memory.read]
    simp only [eq_comm]

theorem Memory.read_write_from {lo a a' : Nat} {b : Byte} {m : Memory} (hm : Memory.wfFrom lo m = true) :
    Memory.read (Memory.write m a b) a' = if a' = a then b else Memory.read m a' := by
  induction m generalizing lo with
  | nil => exact Memory.read_cons rfl
  | cons c m ih =>
    obtain ⟨a₁, b₁⟩ := c
    have h := Memory.wfFrom_cons.1 hm
    rw [Memory.write]
    split
    · exact Memory.read_cons (Memory.wfFrom_cons.2 ⟨by omega, h.2⟩)
    · split
      · subst a₁
        rw [Memory.read_cons h.2.2.2]
        split
        · rfl
        · rw [Memory.read, if_neg (fun e => absurd e.symm ‹_›)]
      · rw [Memory.read, Memory.read, ih h.2.2.2]
        split <;> split <;> simp_all

/-- A read after a write: the byte written at its address, what was there elsewhere (R68). -/
theorem Memory.read_write {m : Memory} (hm : m.wf = true) (a a' : Nat) (b : Byte) :
    (m.write a b).read a' = if a' = a then b else m.read a' := Memory.read_write_from hm

/-- Canonical lists that read alike are equal. -/
theorem Memory.ext_of_read {lo : Nat} {m m' : Memory} (hm : Memory.wfFrom lo m = true)
    (hm' : Memory.wfFrom lo m' = true) (h : ∀ a, m.read a = m'.read a) : m = m' := by
  induction m generalizing lo m' with
  | nil =>
    cases m' with
    | nil => rfl
    | cons c m' =>
      obtain ⟨a, b⟩ := c
      have h' := Memory.wfFrom_cons.1 hm'
      have := h a
      rw [Memory.read, Memory.read, if_pos rfl] at this
      exact absurd this.symm h'.2.2.1
  | cons c m ih =>
    obtain ⟨a, b⟩ := c
    have h₁ := Memory.wfFrom_cons.1 hm
    cases m' with
    | nil =>
      have := h a
      rw [Memory.read, Memory.read, if_pos rfl] at this
      exact absurd this h₁.2.2.1
    | cons c' m' =>
      obtain ⟨a', b'⟩ := c'
      have h₂ := Memory.wfFrom_cons.1 hm'
      rcases Nat.lt_trichotomy a a' with hlt | heq | hgt
      · have := h a
        rw [Memory.read, if_pos rfl, Memory.read, if_neg (by omega),
          Memory.read_of_lt h₂.2.2.2 (by omega)] at this
        exact absurd this h₁.2.2.1
      · subst heq
        have hb := h a
        rw [Memory.read, if_pos rfl, Memory.read, if_pos rfl] at hb
        subst hb
        refine congrArg _ (ih h₁.2.2.2 h₂.2.2.2 fun x => ?_)
        have hx := h x
        rw [Memory.read, Memory.read] at hx
        by_cases hax : a = x
        · subst hax
          rw [Memory.read_of_lt h₁.2.2.2 (by omega), Memory.read_of_lt h₂.2.2.2 (by omega)]
        · rwa [if_neg hax, if_neg hax] at hx
      · have := h a'
        rw [Memory.read, if_neg (by omega), Memory.read_of_lt h₁.2.2.2 (by omega), Memory.read,
          if_pos rfl] at this
        exact absurd this.symm h₂.2.2.1

/-! ### Sequences of bytes -/

/-- Reading after storing a sequence of bytes: byte k of the sequence at its address, what was there elsewhere. -/
theorem Memory.read_writeBytes {m : Memory} {a : Nat} {bs : List Byte} (ha : a + bs.length ≤ memSize)
    (hm : m.wf = true) (x : Nat) :
    (m.writeBytes a bs).read x = if a ≤ x ∧ x < a + bs.length then bs.getD (x - a) 0#8 else m.read x := by
  induction bs generalizing m a with
  | nil => rw [if_neg (by simp only [List.length_nil]; omega)]; rfl
  | cons b bs ih =>
    rw [List.length_cons] at ha ⊢
    rw [Memory.writeBytes, ih (by omega) (Memory.wf_write b (by omega) hm), Memory.read_write hm]
    by_cases hx : x = a
    · subst hx
      rw [if_neg (by omega), if_pos rfl, if_pos (by omega), Nat.sub_self]
      rfl
    · rw [if_neg hx]
      by_cases hin : a + 1 ≤ x ∧ x < a + 1 + bs.length
      · rw [if_pos hin, if_pos (by omega), show x - a = (x - (a + 1)) + 1 by omega]
        rfl
      · rw [if_neg hin, if_neg (by omega)]

@[simp] theorem Memory.length_readBytes (m : Memory) (a n : Nat) : (m.readBytes a n).length = n := by
  induction n generalizing a with
  | zero => rfl
  | succ n ih => simp [Memory.readBytes, ih]

theorem Memory.getElem?_readBytes (m : Memory) (a n k : Nat) :
    (m.readBytes a n)[k]? = if k < n then some (m.read (a + k)) else none := by
  induction n generalizing a k with
  | zero => rfl
  | succ n ih =>
    cases k with
    | zero => rfl
    | succ k =>
      rw [Memory.readBytes, List.getElem?_cons_succ, ih, show a + 1 + k = a + (k + 1) by omega]
      simp only [Nat.add_lt_add_iff_right]

/-! ### Registers set from bytes -/

theorem getElem_setRegsFrom (v : Vector Byte 16) (k : Nat) (bs : List Byte) (r : Reg) :
    (setRegsFrom v k bs)[r] = if k ≤ r.val ∧ r.val < k + bs.length then bs.getD (r.val - k) 0#8 else v[r] := by
  induction bs generalizing v k with
  | nil => rw [if_neg (by simp only [List.length_nil]; omega)]; rfl
  | cons b bs ih =>
    rw [setRegsFrom, ih]
    simp only [List.length_cons, Fin.getElem_fin, Vector.getElem_setIfInBounds]
    by_cases hk : k = r.val
    · subst hk
      rw [if_neg (by omega), if_pos rfl, if_pos (by omega), Nat.sub_self]
      rfl
    · by_cases hin : k + 1 ≤ r.val ∧ r.val < k + 1 + bs.length
      · rw [if_pos hin, if_pos (by omega), show r.val - k = (r.val - (k + 1)) + 1 by omega]
        rfl
      · rw [if_neg hin, if_neg hk, if_neg (by omega)]

end Sys2Proof.Machine
end

