-- ==== Sys2Proof/Laws/State.lean ====
section
/-! SUPPORT. One lemma per field per update of State, so that no later proof unfolds a record update. -/

namespace Sys2Proof.Machine

variable (s : State)

/-! ### `State.setReg` -/

@[simp] theorem State.setReg_v (x : Reg) (b : Byte) : (s.setReg x b).v = s.v.set x b := rfl
@[simp] theorem State.setReg_i (x : Reg) (b : Byte) : (s.setReg x b).i = s.i := rfl
@[simp] theorem State.setReg_pc (x : Reg) (b : Byte) : (s.setReg x b).pc = s.pc := rfl
@[simp] theorem State.setReg_sp (x : Reg) (b : Byte) : (s.setReg x b).sp = s.sp := rfl
@[simp] theorem State.setReg_stack (x : Reg) (b : Byte) : (s.setReg x b).stack = s.stack := rfl
@[simp] theorem State.setReg_dt (x : Reg) (b : Byte) : (s.setReg x b).dt = s.dt := rfl
@[simp] theorem State.setReg_st (x : Reg) (b : Byte) : (s.setReg x b).st = s.st := rfl
@[simp] theorem State.setReg_fb (x : Reg) (b : Byte) : (s.setReg x b).fb = s.fb := rfl
@[simp] theorem State.setReg_keys (x : Reg) (b : Byte) : (s.setReg x b).keys = s.keys := rfl
@[simp] theorem State.setReg_mem (x : Reg) (b : Byte) : (s.setReg x b).mem = s.mem := rfl
@[simp] theorem State.setReg_fault (x : Reg) (b : Byte) : (s.setReg x b).fault = s.fault := rfl
@[simp] theorem State.setReg_cfg (x : Reg) (b : Byte) : (s.setReg x b).cfg = s.cfg := rfl
@[simp] theorem State.setReg_draws (x : Reg) (b : Byte) : (s.setReg x b).draws = s.draws := rfl

/-! ### `State.setI` -/

@[simp] theorem State.setI_v (w : Word) : (s.setI w).v = s.v := rfl
@[simp] theorem State.setI_i (w : Word) : (s.setI w).i = w := rfl
@[simp] theorem State.setI_pc (w : Word) : (s.setI w).pc = s.pc := rfl
@[simp] theorem State.setI_sp (w : Word) : (s.setI w).sp = s.sp := rfl
@[simp] theorem State.setI_stack (w : Word) : (s.setI w).stack = s.stack := rfl
@[simp] theorem State.setI_dt (w : Word) : (s.setI w).dt = s.dt := rfl
@[simp] theorem State.setI_st (w : Word) : (s.setI w).st = s.st := rfl
@[simp] theorem State.setI_fb (w : Word) : (s.setI w).fb = s.fb := rfl
@[simp] theorem State.setI_keys (w : Word) : (s.setI w).keys = s.keys := rfl
@[simp] theorem State.setI_mem (w : Word) : (s.setI w).mem = s.mem := rfl
@[simp] theorem State.setI_fault (w : Word) : (s.setI w).fault = s.fault := rfl
@[simp] theorem State.setI_cfg (w : Word) : (s.setI w).cfg = s.cfg := rfl
@[simp] theorem State.setI_draws (w : Word) : (s.setI w).draws = s.draws := rfl

/-! ### `State.setPc` -/

@[simp] theorem State.setPc_v (w : Word) : (s.setPc w).v = s.v := rfl
@[simp] theorem State.setPc_i (w : Word) : (s.setPc w).i = s.i := rfl
@[simp] theorem State.setPc_pc (w : Word) : (s.setPc w).pc = w := rfl
@[simp] theorem State.setPc_sp (w : Word) : (s.setPc w).sp = s.sp := rfl
@[simp] theorem State.setPc_stack (w : Word) : (s.setPc w).stack = s.stack := rfl
@[simp] theorem State.setPc_dt (w : Word) : (s.setPc w).dt = s.dt := rfl
@[simp] theorem State.setPc_st (w : Word) : (s.setPc w).st = s.st := rfl
@[simp] theorem State.setPc_fb (w : Word) : (s.setPc w).fb = s.fb := rfl
@[simp] theorem State.setPc_keys (w : Word) : (s.setPc w).keys = s.keys := rfl
@[simp] theorem State.setPc_mem (w : Word) : (s.setPc w).mem = s.mem := rfl
@[simp] theorem State.setPc_fault (w : Word) : (s.setPc w).fault = s.fault := rfl
@[simp] theorem State.setPc_cfg (w : Word) : (s.setPc w).cfg = s.cfg := rfl
@[simp] theorem State.setPc_draws (w : Word) : (s.setPc w).draws = s.draws := rfl

/-! ### `State.advance` -/

@[simp] theorem State.advance_v : (s.advance).v = s.v := rfl
@[simp] theorem State.advance_i : (s.advance).i = s.i := rfl
@[simp] theorem State.advance_pc : (s.advance).pc = s.pc + 2#16 := rfl
@[simp] theorem State.advance_sp : (s.advance).sp = s.sp := rfl
@[simp] theorem State.advance_stack : (s.advance).stack = s.stack := rfl
@[simp] theorem State.advance_dt : (s.advance).dt = s.dt := rfl
@[simp] theorem State.advance_st : (s.advance).st = s.st := rfl
@[simp] theorem State.advance_fb : (s.advance).fb = s.fb := rfl
@[simp] theorem State.advance_keys : (s.advance).keys = s.keys := rfl
@[simp] theorem State.advance_mem : (s.advance).mem = s.mem := rfl
@[simp] theorem State.advance_fault : (s.advance).fault = s.fault := rfl
@[simp] theorem State.advance_cfg : (s.advance).cfg = s.cfg := rfl
@[simp] theorem State.advance_draws : (s.advance).draws = s.draws := rfl

/-! ### `State.skipIf` -/

@[simp] theorem State.skipIf_v (c : Bool) : (s.skipIf c).v = s.v := rfl
@[simp] theorem State.skipIf_i (c : Bool) : (s.skipIf c).i = s.i := rfl
@[simp] theorem State.skipIf_pc (c : Bool) : (s.skipIf c).pc = if c then s.pc + 4#16 else s.pc + 2#16 := rfl
@[simp] theorem State.skipIf_sp (c : Bool) : (s.skipIf c).sp = s.sp := rfl
@[simp] theorem State.skipIf_stack (c : Bool) : (s.skipIf c).stack = s.stack := rfl
@[simp] theorem State.skipIf_dt (c : Bool) : (s.skipIf c).dt = s.dt := rfl
@[simp] theorem State.skipIf_st (c : Bool) : (s.skipIf c).st = s.st := rfl
@[simp] theorem State.skipIf_fb (c : Bool) : (s.skipIf c).fb = s.fb := rfl
@[simp] theorem State.skipIf_keys (c : Bool) : (s.skipIf c).keys = s.keys := rfl
@[simp] theorem State.skipIf_mem (c : Bool) : (s.skipIf c).mem = s.mem := rfl
@[simp] theorem State.skipIf_fault (c : Bool) : (s.skipIf c).fault = s.fault := rfl
@[simp] theorem State.skipIf_cfg (c : Bool) : (s.skipIf c).cfg = s.cfg := rfl
@[simp] theorem State.skipIf_draws (c : Bool) : (s.skipIf c).draws = s.draws := rfl

/-! ### `State.setDt` -/

@[simp] theorem State.setDt_v (b : Byte) : (s.setDt b).v = s.v := rfl
@[simp] theorem State.setDt_i (b : Byte) : (s.setDt b).i = s.i := rfl
@[simp] theorem State.setDt_pc (b : Byte) : (s.setDt b).pc = s.pc := rfl
@[simp] theorem State.setDt_sp (b : Byte) : (s.setDt b).sp = s.sp := rfl
@[simp] theorem State.setDt_stack (b : Byte) : (s.setDt b).stack = s.stack := rfl
@[simp] theorem State.setDt_dt (b : Byte) : (s.setDt b).dt = b := rfl
@[simp] theorem State.setDt_st (b : Byte) : (s.setDt b).st = s.st := rfl
@[simp] theorem State.setDt_fb (b : Byte) : (s.setDt b).fb = s.fb := rfl
@[simp] theorem State.setDt_keys (b : Byte) : (s.setDt b).keys = s.keys := rfl
@[simp] theorem State.setDt_mem (b : Byte) : (s.setDt b).mem = s.mem := rfl
@[simp] theorem State.setDt_fault (b : Byte) : (s.setDt b).fault = s.fault := rfl
@[simp] theorem State.setDt_cfg (b : Byte) : (s.setDt b).cfg = s.cfg := rfl
@[simp] theorem State.setDt_draws (b : Byte) : (s.setDt b).draws = s.draws := rfl

/-! ### `State.setSt` -/

@[simp] theorem State.setSt_v (b : Byte) : (s.setSt b).v = s.v := rfl
@[simp] theorem State.setSt_i (b : Byte) : (s.setSt b).i = s.i := rfl
@[simp] theorem State.setSt_pc (b : Byte) : (s.setSt b).pc = s.pc := rfl
@[simp] theorem State.setSt_sp (b : Byte) : (s.setSt b).sp = s.sp := rfl
@[simp] theorem State.setSt_stack (b : Byte) : (s.setSt b).stack = s.stack := rfl
@[simp] theorem State.setSt_dt (b : Byte) : (s.setSt b).dt = s.dt := rfl
@[simp] theorem State.setSt_st (b : Byte) : (s.setSt b).st = b := rfl
@[simp] theorem State.setSt_fb (b : Byte) : (s.setSt b).fb = s.fb := rfl
@[simp] theorem State.setSt_keys (b : Byte) : (s.setSt b).keys = s.keys := rfl
@[simp] theorem State.setSt_mem (b : Byte) : (s.setSt b).mem = s.mem := rfl
@[simp] theorem State.setSt_fault (b : Byte) : (s.setSt b).fault = s.fault := rfl
@[simp] theorem State.setSt_cfg (b : Byte) : (s.setSt b).cfg = s.cfg := rfl
@[simp] theorem State.setSt_draws (b : Byte) : (s.setSt b).draws = s.draws := rfl

/-! ### `State.setFb` -/

@[simp] theorem State.setFb_v (f : Framebuffer) : (s.setFb f).v = s.v := rfl
@[simp] theorem State.setFb_i (f : Framebuffer) : (s.setFb f).i = s.i := rfl
@[simp] theorem State.setFb_pc (f : Framebuffer) : (s.setFb f).pc = s.pc := rfl
@[simp] theorem State.setFb_sp (f : Framebuffer) : (s.setFb f).sp = s.sp := rfl
@[simp] theorem State.setFb_stack (f : Framebuffer) : (s.setFb f).stack = s.stack := rfl
@[simp] theorem State.setFb_dt (f : Framebuffer) : (s.setFb f).dt = s.dt := rfl
@[simp] theorem State.setFb_st (f : Framebuffer) : (s.setFb f).st = s.st := rfl
@[simp] theorem State.setFb_fb (f : Framebuffer) : (s.setFb f).fb = f := rfl
@[simp] theorem State.setFb_keys (f : Framebuffer) : (s.setFb f).keys = s.keys := rfl
@[simp] theorem State.setFb_mem (f : Framebuffer) : (s.setFb f).mem = s.mem := rfl
@[simp] theorem State.setFb_fault (f : Framebuffer) : (s.setFb f).fault = s.fault := rfl
@[simp] theorem State.setFb_cfg (f : Framebuffer) : (s.setFb f).cfg = s.cfg := rfl
@[simp] theorem State.setFb_draws (f : Framebuffer) : (s.setFb f).draws = s.draws := rfl

/-! ### `State.setMem` -/

@[simp] theorem State.setMem_v (m : Memory) : (s.setMem m).v = s.v := rfl
@[simp] theorem State.setMem_i (m : Memory) : (s.setMem m).i = s.i := rfl
@[simp] theorem State.setMem_pc (m : Memory) : (s.setMem m).pc = s.pc := rfl
@[simp] theorem State.setMem_sp (m : Memory) : (s.setMem m).sp = s.sp := rfl
@[simp] theorem State.setMem_stack (m : Memory) : (s.setMem m).stack = s.stack := rfl
@[simp] theorem State.setMem_dt (m : Memory) : (s.setMem m).dt = s.dt := rfl
@[simp] theorem State.setMem_st (m : Memory) : (s.setMem m).st = s.st := rfl
@[simp] theorem State.setMem_fb (m : Memory) : (s.setMem m).fb = s.fb := rfl
@[simp] theorem State.setMem_keys (m : Memory) : (s.setMem m).keys = s.keys := rfl
@[simp] theorem State.setMem_mem (m : Memory) : (s.setMem m).mem = m := rfl
@[simp] theorem State.setMem_fault (m : Memory) : (s.setMem m).fault = s.fault := rfl
@[simp] theorem State.setMem_cfg (m : Memory) : (s.setMem m).cfg = s.cfg := rfl
@[simp] theorem State.setMem_draws (m : Memory) : (s.setMem m).draws = s.draws := rfl

/-! ### `State.takeFault` -/

@[simp] theorem State.takeFault_v (op : Word) (f : Fault) : (s.takeFault op f).v = s.v := rfl
@[simp] theorem State.takeFault_i (op : Word) (f : Fault) : (s.takeFault op f).i = s.i := rfl
@[simp] theorem State.takeFault_pc (op : Word) (f : Fault) : (s.takeFault op f).pc = s.pc := rfl
@[simp] theorem State.takeFault_sp (op : Word) (f : Fault) : (s.takeFault op f).sp = s.sp := rfl
@[simp] theorem State.takeFault_stack (op : Word) (f : Fault) : (s.takeFault op f).stack = s.stack := rfl
@[simp] theorem State.takeFault_dt (op : Word) (f : Fault) : (s.takeFault op f).dt = s.dt := rfl
@[simp] theorem State.takeFault_st (op : Word) (f : Fault) : (s.takeFault op f).st = s.st := rfl
@[simp] theorem State.takeFault_fb (op : Word) (f : Fault) : (s.takeFault op f).fb = s.fb := rfl
@[simp] theorem State.takeFault_keys (op : Word) (f : Fault) : (s.takeFault op f).keys = s.keys := rfl
@[simp] theorem State.takeFault_mem (op : Word) (f : Fault) : (s.takeFault op f).mem = s.mem := rfl
@[simp] theorem State.takeFault_fault (op : Word) (f : Fault) : (s.takeFault op f).fault = { cause := f.cause, pc := s.pc, op := op, addr := f.addr } := rfl
@[simp] theorem State.takeFault_cfg (op : Word) (f : Fault) : (s.takeFault op f).cfg = s.cfg := rfl
@[simp] theorem State.takeFault_draws (op : Word) (f : Fault) : (s.takeFault op f).draws = s.draws := rfl

/-! ### `State.leaveUnknownOpcode` -/

@[simp] theorem State.leaveUnknownOpcode_v : (s.leaveUnknownOpcode).v = s.v := rfl
@[simp] theorem State.leaveUnknownOpcode_i : (s.leaveUnknownOpcode).i = s.i := rfl
@[simp] theorem State.leaveUnknownOpcode_pc : (s.leaveUnknownOpcode).pc = s.pc + 2#16 := rfl
@[simp] theorem State.leaveUnknownOpcode_sp : (s.leaveUnknownOpcode).sp = s.sp := rfl
@[simp] theorem State.leaveUnknownOpcode_stack : (s.leaveUnknownOpcode).stack = s.stack := rfl
@[simp] theorem State.leaveUnknownOpcode_dt : (s.leaveUnknownOpcode).dt = s.dt := rfl
@[simp] theorem State.leaveUnknownOpcode_st : (s.leaveUnknownOpcode).st = s.st := rfl
@[simp] theorem State.leaveUnknownOpcode_fb : (s.leaveUnknownOpcode).fb = s.fb := rfl
@[simp] theorem State.leaveUnknownOpcode_keys : (s.leaveUnknownOpcode).keys = s.keys := rfl
@[simp] theorem State.leaveUnknownOpcode_mem : (s.leaveUnknownOpcode).mem = s.mem := rfl
@[simp] theorem State.leaveUnknownOpcode_fault : (s.leaveUnknownOpcode).fault = FaultLatch.clear := rfl
@[simp] theorem State.leaveUnknownOpcode_cfg : (s.leaveUnknownOpcode).cfg = s.cfg := rfl
@[simp] theorem State.leaveUnknownOpcode_draws : (s.leaveUnknownOpcode).draws = s.draws := rfl

/-! ### `State.setRegs` -/

@[simp] theorem State.setRegs_v (bs : List Byte) : (s.setRegs bs).v = setRegsFrom s.v 0 bs := rfl
@[simp] theorem State.setRegs_i (bs : List Byte) : (s.setRegs bs).i = s.i := rfl
@[simp] theorem State.setRegs_pc (bs : List Byte) : (s.setRegs bs).pc = s.pc := rfl
@[simp] theorem State.setRegs_sp (bs : List Byte) : (s.setRegs bs).sp = s.sp := rfl
@[simp] theorem State.setRegs_stack (bs : List Byte) : (s.setRegs bs).stack = s.stack := rfl
@[simp] theorem State.setRegs_dt (bs : List Byte) : (s.setRegs bs).dt = s.dt := rfl
@[simp] theorem State.setRegs_st (bs : List Byte) : (s.setRegs bs).st = s.st := rfl
@[simp] theorem State.setRegs_fb (bs : List Byte) : (s.setRegs bs).fb = s.fb := rfl
@[simp] theorem State.setRegs_keys (bs : List Byte) : (s.setRegs bs).keys = s.keys := rfl
@[simp] theorem State.setRegs_mem (bs : List Byte) : (s.setRegs bs).mem = s.mem := rfl
@[simp] theorem State.setRegs_fault (bs : List Byte) : (s.setRegs bs).fault = s.fault := rfl
@[simp] theorem State.setRegs_cfg (bs : List Byte) : (s.setRegs bs).cfg = s.cfg := rfl
@[simp] theorem State.setRegs_draws (bs : List Byte) : (s.setRegs bs).draws = s.draws := rfl

/-! ### `State.stepI` -/

@[simp] theorem State.stepI_v (x : Reg) : (s.stepI x).v = s.v := by
  unfold State.stepI; split <;> rfl
@[simp] theorem State.stepI_i (x : Reg) : (s.stepI x).i = if s.cfg.quirkLoadstoreIncI then s.i + BitVec.ofNat 16 (x.val + 1) else s.i := by
  unfold State.stepI; split <;> rfl
@[simp] theorem State.stepI_pc (x : Reg) : (s.stepI x).pc = s.pc := by
  unfold State.stepI; split <;> rfl
@[simp] theorem State.stepI_sp (x : Reg) : (s.stepI x).sp = s.sp := by
  unfold State.stepI; split <;> rfl
@[simp] theorem State.stepI_stack (x : Reg) : (s.stepI x).stack = s.stack := by
  unfold State.stepI; split <;> rfl
@[simp] theorem State.stepI_dt (x : Reg) : (s.stepI x).dt = s.dt := by
  unfold State.stepI; split <;> rfl
@[simp] theorem State.stepI_st (x : Reg) : (s.stepI x).st = s.st := by
  unfold State.stepI; split <;> rfl
@[simp] theorem State.stepI_fb (x : Reg) : (s.stepI x).fb = s.fb := by
  unfold State.stepI; split <;> rfl
@[simp] theorem State.stepI_keys (x : Reg) : (s.stepI x).keys = s.keys := by
  unfold State.stepI; split <;> rfl
@[simp] theorem State.stepI_mem (x : Reg) : (s.stepI x).mem = s.mem := by
  unfold State.stepI; split <;> rfl
@[simp] theorem State.stepI_fault (x : Reg) : (s.stepI x).fault = s.fault := by
  unfold State.stepI; split <;> rfl
@[simp] theorem State.stepI_cfg (x : Reg) : (s.stepI x).cfg = s.cfg := by
  unfold State.stepI; split <;> rfl
@[simp] theorem State.stepI_draws (x : Reg) : (s.stepI x).draws = s.draws := by
  unfold State.stepI; split <;> rfl

/-! ### `State.setFlag` -/

@[simp] theorem State.setFlag_v (c : Bool) : (s.setFlag c).v = s.v.set VF (flagByte c) := rfl
@[simp] theorem State.setFlag_i (c : Bool) : (s.setFlag c).i = s.i := rfl
@[simp] theorem State.setFlag_pc (c : Bool) : (s.setFlag c).pc = s.pc := rfl
@[simp] theorem State.setFlag_sp (c : Bool) : (s.setFlag c).sp = s.sp := rfl
@[simp] theorem State.setFlag_stack (c : Bool) : (s.setFlag c).stack = s.stack := rfl
@[simp] theorem State.setFlag_dt (c : Bool) : (s.setFlag c).dt = s.dt := rfl
@[simp] theorem State.setFlag_st (c : Bool) : (s.setFlag c).st = s.st := rfl
@[simp] theorem State.setFlag_fb (c : Bool) : (s.setFlag c).fb = s.fb := rfl
@[simp] theorem State.setFlag_keys (c : Bool) : (s.setFlag c).keys = s.keys := rfl
@[simp] theorem State.setFlag_mem (c : Bool) : (s.setFlag c).mem = s.mem := rfl
@[simp] theorem State.setFlag_fault (c : Bool) : (s.setFlag c).fault = s.fault := rfl
@[simp] theorem State.setFlag_cfg (c : Bool) : (s.setFlag c).cfg = s.cfg := rfl
@[simp] theorem State.setFlag_draws (c : Bool) : (s.setFlag c).draws = s.draws := rfl

/-! ### `State.logicFlag` -/

@[simp] theorem State.logicFlag_v : (s.logicFlag).v = if s.cfg.quirkLogicClearsVf then s.v.set VF 0#8 else s.v := by
  unfold State.logicFlag; split <;> rfl
@[simp] theorem State.logicFlag_i : (s.logicFlag).i = s.i := by
  unfold State.logicFlag; split <;> rfl
@[simp] theorem State.logicFlag_pc : (s.logicFlag).pc = s.pc := by
  unfold State.logicFlag; split <;> rfl
@[simp] theorem State.logicFlag_sp : (s.logicFlag).sp = s.sp := by
  unfold State.logicFlag; split <;> rfl
@[simp] theorem State.logicFlag_stack : (s.logicFlag).stack = s.stack := by
  unfold State.logicFlag; split <;> rfl
@[simp] theorem State.logicFlag_dt : (s.logicFlag).dt = s.dt := by
  unfold State.logicFlag; split <;> rfl
@[simp] theorem State.logicFlag_st : (s.logicFlag).st = s.st := by
  unfold State.logicFlag; split <;> rfl
@[simp] theorem State.logicFlag_fb : (s.logicFlag).fb = s.fb := by
  unfold State.logicFlag; split <;> rfl
@[simp] theorem State.logicFlag_keys : (s.logicFlag).keys = s.keys := by
  unfold State.logicFlag; split <;> rfl
@[simp] theorem State.logicFlag_mem : (s.logicFlag).mem = s.mem := by
  unfold State.logicFlag; split <;> rfl
@[simp] theorem State.logicFlag_fault : (s.logicFlag).fault = s.fault := by
  unfold State.logicFlag; split <;> rfl
@[simp] theorem State.logicFlag_cfg : (s.logicFlag).cfg = s.cfg := by
  unfold State.logicFlag; split <;> rfl
@[simp] theorem State.logicFlag_draws : (s.logicFlag).draws = s.draws := by
  unfold State.logicFlag; split <;> rfl

/-! ### `State.push` -/

@[simp] theorem State.push_v (w : Word) (h : s.sp.val < 16) : (s.push w h).v = s.v := rfl
@[simp] theorem State.push_i (w : Word) (h : s.sp.val < 16) : (s.push w h).i = s.i := rfl
@[simp] theorem State.push_pc (w : Word) (h : s.sp.val < 16) : (s.push w h).pc = s.pc := rfl
@[simp] theorem State.push_sp (w : Word) (h : s.sp.val < 16) : (s.push w h).sp = ⟨s.sp.val + 1, Nat.add_lt_add_right h 1⟩ := rfl
@[simp] theorem State.push_stack (w : Word) (h : s.sp.val < 16) : (s.push w h).stack = s.stack.set s.sp.val w := rfl
@[simp] theorem State.push_dt (w : Word) (h : s.sp.val < 16) : (s.push w h).dt = s.dt := rfl
@[simp] theorem State.push_st (w : Word) (h : s.sp.val < 16) : (s.push w h).st = s.st := rfl
@[simp] theorem State.push_fb (w : Word) (h : s.sp.val < 16) : (s.push w h).fb = s.fb := rfl
@[simp] theorem State.push_keys (w : Word) (h : s.sp.val < 16) : (s.push w h).keys = s.keys := rfl
@[simp] theorem State.push_mem (w : Word) (h : s.sp.val < 16) : (s.push w h).mem = s.mem := rfl
@[simp] theorem State.push_fault (w : Word) (h : s.sp.val < 16) : (s.push w h).fault = s.fault := rfl
@[simp] theorem State.push_cfg (w : Word) (h : s.sp.val < 16) : (s.push w h).cfg = s.cfg := rfl
@[simp] theorem State.push_draws (w : Word) (h : s.sp.val < 16) : (s.push w h).draws = s.draws := rfl

/-! ### `State.popPc` -/

@[simp] theorem State.popPc_v (h : 0 < s.sp.val) : (s.popPc h).v = s.v := rfl
@[simp] theorem State.popPc_i (h : 0 < s.sp.val) : (s.popPc h).i = s.i := rfl
@[simp] theorem State.popPc_pc (h : 0 < s.sp.val) : (s.popPc h).pc = s.stack[s.sp.val - 1]'(Nat.sub_one_lt_of_le h (Nat.le_of_lt_succ s.sp.isLt)) := rfl
@[simp] theorem State.popPc_sp (h : 0 < s.sp.val) : (s.popPc h).sp = ⟨s.sp.val - 1, Nat.lt_of_le_of_lt (Nat.sub_le _ _) s.sp.isLt⟩ := rfl
@[simp] theorem State.popPc_stack (h : 0 < s.sp.val) : (s.popPc h).stack = s.stack := rfl
@[simp] theorem State.popPc_dt (h : 0 < s.sp.val) : (s.popPc h).dt = s.dt := rfl
@[simp] theorem State.popPc_st (h : 0 < s.sp.val) : (s.popPc h).st = s.st := rfl
@[simp] theorem State.popPc_fb (h : 0 < s.sp.val) : (s.popPc h).fb = s.fb := rfl
@[simp] theorem State.popPc_keys (h : 0 < s.sp.val) : (s.popPc h).keys = s.keys := rfl
@[simp] theorem State.popPc_mem (h : 0 < s.sp.val) : (s.popPc h).mem = s.mem := rfl
@[simp] theorem State.popPc_fault (h : 0 < s.sp.val) : (s.popPc h).fault = s.fault := rfl
@[simp] theorem State.popPc_cfg (h : 0 < s.sp.val) : (s.popPc h).cfg = s.cfg := rfl
@[simp] theorem State.popPc_draws (h : 0 < s.sp.val) : (s.popPc h).draws = s.draws := rfl

/-! ### `State.tick` -/

@[simp] theorem State.tick_v : (s.tick).v = s.v := rfl
@[simp] theorem State.tick_i : (s.tick).i = s.i := rfl
@[simp] theorem State.tick_pc : (s.tick).pc = s.pc := rfl
@[simp] theorem State.tick_sp : (s.tick).sp = s.sp := rfl
@[simp] theorem State.tick_stack : (s.tick).stack = s.stack := rfl
@[simp] theorem State.tick_dt : (s.tick).dt = countDown s.dt := rfl
@[simp] theorem State.tick_st : (s.tick).st = countDown s.st := rfl
@[simp] theorem State.tick_fb : (s.tick).fb = s.fb := rfl
@[simp] theorem State.tick_keys : (s.tick).keys = s.keys := rfl
@[simp] theorem State.tick_mem : (s.tick).mem = s.mem := rfl
@[simp] theorem State.tick_fault : (s.tick).fault = s.fault := rfl
@[simp] theorem State.tick_cfg : (s.tick).cfg = s.cfg := rfl
@[simp] theorem State.tick_draws : (s.tick).draws = s.draws := rfl

/-! ### `State.setKey` -/

@[simp] theorem State.setKey_v (k : Key) (p : Bool) : (s.setKey k p).v = s.v := rfl
@[simp] theorem State.setKey_i (k : Key) (p : Bool) : (s.setKey k p).i = s.i := rfl
@[simp] theorem State.setKey_pc (k : Key) (p : Bool) : (s.setKey k p).pc = s.pc := rfl
@[simp] theorem State.setKey_sp (k : Key) (p : Bool) : (s.setKey k p).sp = s.sp := rfl
@[simp] theorem State.setKey_stack (k : Key) (p : Bool) : (s.setKey k p).stack = s.stack := rfl
@[simp] theorem State.setKey_dt (k : Key) (p : Bool) : (s.setKey k p).dt = s.dt := rfl
@[simp] theorem State.setKey_st (k : Key) (p : Bool) : (s.setKey k p).st = s.st := rfl
@[simp] theorem State.setKey_fb (k : Key) (p : Bool) : (s.setKey k p).fb = s.fb := rfl
@[simp] theorem State.setKey_keys (k : Key) (p : Bool) : (s.setKey k p).keys = if p then s.keys ||| (1#16 <<< k.val) else s.keys &&& ~~~(1#16 <<< k.val) := rfl
@[simp] theorem State.setKey_mem (k : Key) (p : Bool) : (s.setKey k p).mem = s.mem := rfl
@[simp] theorem State.setKey_fault (k : Key) (p : Bool) : (s.setKey k p).fault = s.fault := rfl
@[simp] theorem State.setKey_cfg (k : Key) (p : Bool) : (s.setKey k p).cfg = s.cfg := rfl
@[simp] theorem State.setKey_draws (k : Key) (p : Bool) : (s.setKey k p).draws = s.draws := rfl

end Sys2Proof.Machine
end

