-- ==== Sys2Proof/Laws/Ops.lean ====
section
/-! SUPPORT. What each shared operation can do, said once: registers, the bounds check, fault entry, the framebuffer and
the draw of a sprite. -/

namespace Sys2Proof.Machine

/-! ### Registers -/

/-- A register after a register write. -/
@[simp] theorem State.reg_setReg (s : State) (x r : Reg) (b : Byte) :
    (s.setReg x b).reg r = if r = x then b else s.reg r := by
  simp only [State.reg, State.setReg_v, Fin.getElem_fin, Vector.getElem_set, Fin.ext_iff, eq_comm]

/-- A register after a flag write. -/
@[simp] theorem State.reg_setFlag (s : State) (c : Bool) (r : Reg) :
    (s.setFlag c).reg r = if r = VF then flagByte c else s.reg r := State.reg_setReg s VF r (flagByte c)

/-- A register after the last statement of a logic instruction. -/
@[simp] theorem State.reg_logicFlag (s : State) (r : Reg) :
    s.logicFlag.reg r = if r = VF ∧ s.cfg.quirkLogicClearsVf = true then 0#8 else s.reg r := by
  unfold State.logicFlag
  split <;> simp_all

/-- Registers depend on nothing but the register file. -/
theorem State.reg_congr {s t : State} (h : t.v = s.v) (r : Reg) : t.reg r = s.reg r := by
  rw [State.reg, State.reg, h]

@[simp] theorem State.reg_advance (s : State) (r : Reg) : s.advance.reg r = s.reg r := rfl
@[simp] theorem State.reg_setPc (s : State) (w : Word) (r : Reg) : (s.setPc w).reg r = s.reg r := rfl
@[simp] theorem State.reg_setI (s : State) (w : Word) (r : Reg) : (s.setI w).reg r = s.reg r := rfl
@[simp] theorem State.reg_setFb (s : State) (f : Framebuffer) (r : Reg) : (s.setFb f).reg r = s.reg r := rfl
@[simp] theorem State.reg_setMem (s : State) (m : Memory) (r : Reg) : (s.setMem m).reg r = s.reg r := rfl
@[simp] theorem State.reg_setDt (s : State) (b : Byte) (r : Reg) : (s.setDt b).reg r = s.reg r := rfl
@[simp] theorem State.reg_setSt (s : State) (b : Byte) (r : Reg) : (s.setSt b).reg r = s.reg r := rfl
@[simp] theorem State.reg_skipIf (s : State) (c : Bool) (r : Reg) : (s.skipIf c).reg r = s.reg r := rfl
@[simp] theorem State.reg_stepI (s : State) (x r : Reg) : (s.stepI x).reg r = s.reg r :=
  State.reg_congr (State.stepI_v s x) r

/-- A register after an array load. -/
theorem State.reg_setRegs (s : State) (bs : List Byte) (r : Reg) :
    (s.setRegs bs).reg r = if r.val < bs.length then bs.getD r.val 0#8 else s.reg r := by
  rw [State.reg, State.setRegs_v, getElem_setRegsFrom]
  simp only [Nat.zero_le, true_and, Nat.zero_add, Nat.sub_zero]
  rfl

theorem State.length_regsTo (s : State) (x : Reg) : (s.regsTo x).length = x.val + 1 := by
  simp only [State.regsTo, List.length_take, Vector.length_toList]
  omega

theorem State.getD_regsTo (s : State) (x k : Reg) (h : k ≤ x) : (s.regsTo x).getD k.val 0#8 = s.reg k := by
  have hk : k.val < x.val + 1 := Nat.lt_succ_of_le h
  rw [State.regsTo, List.getD_eq_getElem?_getD, List.getElem?_take_of_lt hk]
  simp [State.reg]

/-! ### The bounds check and faults -/

/-- `CheckRange` passes exactly when the whole access lies below 4096 (R62). -/
theorem checkRange_eq_none {a : Word} {n : Nat} : checkRange a n = none ↔ n = 0 ∨ a.toNat + n - 1 < memSize := by
  unfold checkRange
  split
  case isTrue h => exact iff_of_false (by simp) (by omega)
  case isFalse h => exact iff_of_true rfl (by omega)

/-- What `CheckRange` raises (R201). -/
theorem checkRange_eq_some {a : Word} {n : Nat} {f : Fault} :
    checkRange a n = some f ↔
      n ≠ 0 ∧ memSize ≤ a.toNat + n - 1 ∧ f = .outOfBounds (BitVec.ofNat 16 (max a.toNat memSize)) := by
  unfold checkRange
  split <;> simp_all [eq_comm]

/-- The address recorded with `OutOfBounds` is out of range (R201). -/
theorem memSize_le_addr (a : Word) : memSize ≤ (BitVec.ofNat 16 (max a.toNat memSize)).toNat := by
  rw [BitVec.toNat_ofNat, Nat.mod_eq_of_lt (by have := a.isLt; unfold memSize; omega)]
  exact Nat.le_max_right _ _

/-- Fault entry leaves the block faulted (R31). -/
@[simp] theorem State.faulted_takeFault (s : State) (op : Word) (f : Fault) : (s.takeFault op f).faulted = true := by
  cases f <;> rfl

/-- Faulted means that the latch holds a cause (R31). -/
theorem State.faulted_eq_true {s : State} : s.faulted = true ↔ s.fault.cause ≠ .none := by
  simp [State.faulted]

/-! ### The framebuffer -/

@[simp] theorem Framebuffer.pixel_blank (x y : Nat) : Framebuffer.blank.pixel x y = false := by
  simp [Framebuffer.pixel, Framebuffer.blank]

/-- A pixel after one pixel is inverted. -/
theorem Framebuffer.pixel_flipPixel (f : Framebuffer) (x y x' y' : Nat) :
    (f.flipPixel x y).pixel x' y' = (f.pixel x' y' != decide (x % 64 = x' % 64 ∧ y % 32 = y' % 32)) := by
  have hx : x' % 64 < 64 := Nat.mod_lt _ (by decide)
  simp only [Framebuffer.pixel, Framebuffer.flipPixel, Vector.getElem_set]
  by_cases hy : y % 32 = y' % 32
  · simp only [hy, if_true, BitVec.getLsbD_xor, and_true]
    congr 1
    rw [BitVec.getLsbD_shiftLeft]
    by_cases hxe : x % 64 = x' % 64
    · simp [hxe, hx]
    · simp only [hxe, decide_false, hx, decide_true, Bool.true_and]
      rcases Nat.lt_or_ge (x' % 64) (x % 64) with h | h
      · simp [h]
      · have : x' % 64 - x % 64 ≠ 0 := by omega
        simp [this]
  · simp [hy]

/-- Framebuffers of equal pixels are equal. -/
theorem Framebuffer.ext_pixel {f g : Framebuffer} (h : ∀ x y, x < 64 → y < 32 → f.pixel x y = g.pixel x y) :
    f = g := by
  apply Vector.ext
  intro y hy
  apply BitVec.eq_of_getLsbD_eq
  intro x hx
  have := h x y hx hy
  simpa only [Framebuffer.pixel, Nat.mod_eq_of_lt hx, Nat.mod_eq_of_lt hy] using this

/-! ### The draw of a sprite -/

/-- What one draw has come to once a set of pixels has been visited: each of them inverted, and a collision exactly when
one of them was on. -/
def Drawn (f : Framebuffer) (P : Nat → Nat → Prop) (d : Drawing) : Prop :=
  (∀ x y, x < 64 → y < 32 → (d.fb.pixel x y = true ↔ (f.pixel x y = true ↔ ¬ P x y))) ∧
  (d.collision = true ↔ ∃ x y, x < 64 ∧ y < 32 ∧ P x y ∧ f.pixel x y = true)

theorem Drawn.congr {f : Framebuffer} {P Q : Nat → Nat → Prop} {d : Drawing} (h : Drawn f P d)
    (e : ∀ x y, P x y ↔ Q x y) : Drawn f Q d := by
  have : P = Q := by funext x y; exact propext (e x y)
  exact this ▸ h

/-- One pixel of a sprite row, not visited before. -/
theorem Drawn.drawBit {f : Framebuffer} {P : Nat → Nat → Prop} {d : Drawing} (h : Drawn f P d) (x0 y0 r : Nat)
    (b : Byte) (c : Nat) (hnew : ¬ P ((x0 + c) % 64) ((y0 + r) % 32)) :
    Drawn f (fun x y => P x y ∨ (b.getLsbD (7 - c) = true ∧ (x0 + c) % 64 = x ∧ (y0 + r) % 32 = y))
      (drawBit x0 y0 r b d c) := by
  unfold Machine.drawBit
  split
  case isFalse hb => exact h.congr fun x y => by simp [hb]
  case isTrue hb =>
    have hx : (x0 + c) % 64 < 64 := Nat.mod_lt _ (by decide)
    have hy : (y0 + r) % 32 < 32 := Nat.mod_lt _ (by decide)
    have hpix : d.fb.pixel (x0 + c) (y0 + r) = d.fb.pixel ((x0 + c) % 64) ((y0 + r) % 32) := by
      simp only [Framebuffer.pixel, Nat.mod_mod]
    refine ⟨fun x y hx' hy' => ?_, ?_⟩
    · simp only [hb, true_and]
      rw [Framebuffer.pixel_flipPixel, Nat.mod_eq_of_lt hx', Nat.mod_eq_of_lt hy']
      have hd := h.1 x y hx' hy'
      by_cases he : (x0 + c) % 64 = x ∧ (y0 + r) % 32 = y
      · obtain ⟨rfl, rfl⟩ := he
        simp only [hnew, not_false_eq_true, iff_true] at hd
        simp only [and_self, decide_true, or_true, not_true, iff_false]
        rw [← hd]
        cases d.fb.pixel ((x0 + c) % 64) ((y0 + r) % 32) <;> simp
      · simp only [he, decide_false, or_false, Bool.bne_false]
        exact hd
    · simp only [hb, true_and, Bool.or_eq_true, h.2, hpix]
      have hd := h.1 _ _ hx hy
      simp only [hnew, not_false_eq_true, iff_true] at hd
      rw [hd]
      constructor
      · rintro (⟨x, y, hx', hy', hP, hf⟩ | hf)
        · exact ⟨x, y, hx', hy', .inl hP, hf⟩
        · exact ⟨_, _, hx, hy, .inr ⟨rfl, rfl⟩, hf⟩
      · rintro ⟨x, y, hx', hy', hP | ⟨rfl, rfl⟩, hf⟩
        · exact .inl ⟨x, y, hx', hy', hP, hf⟩
        · exact .inr hf

/-- The first k pixels of a sprite row. -/
theorem Drawn.drawBits {f : Framebuffer} {P : Nat → Nat → Prop} {d : Drawing} (h : Drawn f P d) (x0 y0 r : Nat)
    (b : Byte) (k : Nat) (hk : k ≤ 8) (hnew : ∀ x, ¬ P x ((y0 + r) % 32)) :
    Drawn f (fun x y => P x y ∨ ∃ c, c < k ∧ b.getLsbD (7 - c) = true ∧ (x0 + c) % 64 = x ∧ (y0 + r) % 32 = y)
      ((List.range k).foldl (Machine.drawBit x0 y0 r b) d) := by
  induction k with
  | zero => exact h.congr fun x y => by simp
  | succ k ih =>
    rw [List.range_succ, List.foldl_append, List.foldl_cons, List.foldl_nil]
    have hn : ¬ (P ((x0 + k) % 64) ((y0 + r) % 32) ∨ ∃ c, c < k ∧ b.getLsbD (7 - c) = true ∧
        (x0 + c) % 64 = (x0 + k) % 64 ∧ (y0 + r) % 32 = (y0 + r) % 32) := by
      rintro (hP | ⟨c, hc, -, he, -⟩)
      · exact hnew _ hP
      · omega
    refine ((ih (by omega)).drawBit x0 y0 r b k hn).congr fun x y => ?_
    constructor
    · rintro ((hP | ⟨c, hc, h'⟩) | h')
      · exact .inl hP
      · exact .inr ⟨c, by omega, h'⟩
      · exact .inr ⟨k, by omega, h'⟩
    · rintro (hP | ⟨c, hc, h'⟩)
      · exact .inl (.inl hP)
      · rcases Nat.lt_succ_iff_lt_or_eq.1 hc with hc | rfl
        · exact .inl (.inr ⟨c, hc, h'⟩)
        · exact .inr h'

/-- Everything the draw of a sprite of at most 31 rows does: it inverts exactly the pixels under a 1 bit of the sprite,
and it collides exactly when one of them was on (R150, R152). -/
theorem drawSprite_drawn (m : Memory) (a n x0 y0 : Nat) (f : Framebuffer) (hn : n < 32) :
    Drawn f
      (fun px py => ∃ r c : Nat, r < n ∧ c < 8 ∧ (m.read (a + r)).getLsbD (7 - c) = true ∧
        (x0 + c) % 64 = px ∧ (y0 + r) % 32 = py)
      (drawSprite m a n x0 y0 f) := by
  unfold drawSprite
  induction n with
  | zero => exact ⟨fun x y _ _ => by simp, by simp⟩
  | succ n ih =>
    rw [List.range_succ, List.foldl_append, List.foldl_cons, List.foldl_nil]
    refine ((ih (by omega)).drawBits x0 y0 n (m.read (a + n)) 8 (Nat.le_refl 8) ?_).congr fun x y => ?_
    · rintro x ⟨r, c, hr, -, -, -, he⟩
      omega
    · constructor
      · rintro (⟨r, c, hr, h'⟩ | ⟨c, hc, h'⟩)
        · exact ⟨r, c, by omega, h'⟩
        · exact ⟨n, c, by omega, hc, h'⟩
      · rintro ⟨r, c, hr, hc, h'⟩
        rcases Nat.lt_succ_iff_lt_or_eq.1 hr with hr | rfl
        · exact .inl ⟨r, c, hr, hc, h'⟩
        · exact .inr ⟨c, hc, h'⟩

end Sys2Proof.Machine
end

