-- ==== Sys2Proof/Laws/PerInstr.lean ====
section
/-! SUPPORT. One fact for every instruction, constructor by constructor: it is well-formed, and its word is none of the
illegal words of spec/30_encoding.md R96. -/

namespace Sys2Proof

/-! ### The fields of R91 in a word built by the formats of R92 -/

theorem class_packNNN (c : Nibble) (nnn : Addr12) : (packNNN c nnn).extractLsb' 12 4 = c := by
  apply BitVec.eq_of_getLsbD_eq; intro k hk
  simp only [packNNN, BitVec.getLsbD_extractLsb', BitVec.getLsbD_append, hk]
  simp

theorem class_packXKK (c : Nibble) (x : Reg) (kk : Byte) : (packXKK c x kk).extractLsb' 12 4 = c := by
  apply BitVec.eq_of_getLsbD_eq; intro k hk
  simp only [packXKK, BitVec.getLsbD_extractLsb', BitVec.getLsbD_append, hk]
  simp [show ¬ 12 + k < 8 by omega, show ¬ 12 + k - 8 < 4 by omega, show 12 + k - 8 - 4 = k by omega]

theorem class_packXYN (c : Nibble) (x y : Reg) (n : Nibble) : (packXYN c x y n).extractLsb' 12 4 = c := by
  apply BitVec.eq_of_getLsbD_eq; intro k hk
  simp only [packXYN, BitVec.getLsbD_extractLsb', BitVec.getLsbD_append, hk]
  simp [show ¬ 12 + k < 4 by omega, show ¬ 12 + k - 4 < 4 by omega, show ¬ 12 + k - 4 - 4 < 4 by omega,
    show 12 + k - 4 - 4 - 4 = k by omega]

theorem low8_packXKK (c : Nibble) (x : Reg) (kk : Byte) : (packXKK c x kk).extractLsb' 0 8 = kk := by
  apply BitVec.eq_of_getLsbD_eq; intro k hk
  simp only [packXKK, BitVec.getLsbD_extractLsb', BitVec.getLsbD_append, hk]
  simp [hk]

theorem low4_packXYN (c : Nibble) (x y : Reg) (n : Nibble) : (packXYN c x y n).extractLsb' 0 4 = n := by
  apply BitVec.eq_of_getLsbD_eq; intro k hk
  simp only [packXYN, BitVec.getLsbD_extractLsb', BitVec.getLsbD_append, hk]
  simp [hk]

/-! ### Legal words by class (R96) -/

/-- A word of a class that R96 does not name is legal. -/
theorem legal_of_class (w : Word) (h : w.extractLsb' 12 4 ∉ [0x0#4, 0x5#4, 0x8#4, 0x9#4, 0xE#4, 0xF#4]) :
    wellFormedWord w = true := by
  simp_all [wellFormedWord, illegalWord, illegalClass0, illegalClass5, illegalClass8, illegalClass9, illegalClassE,
    illegalClassF]

theorem legal_packNNN (c : Nibble) (nnn : Addr12) (h : c ∉ [0x0#4, 0x5#4, 0x8#4, 0x9#4, 0xE#4, 0xF#4]) :
    wellFormedWord (packNNN c nnn) = true := legal_of_class _ (by rwa [class_packNNN])

theorem legal_packXKK (c : Nibble) (x : Reg) (kk : Byte) (h : c ∉ [0x0#4, 0x5#4, 0x8#4, 0x9#4, 0xE#4, 0xF#4]) :
    wellFormedWord (packXKK c x kk) = true := legal_of_class _ (by rwa [class_packXKK])

theorem legal_packXYN (c : Nibble) (x y : Reg) (n : Nibble) (h : c ∉ [0x0#4, 0x5#4, 0x8#4, 0x9#4, 0xE#4, 0xF#4]) :
    wellFormedWord (packXYN c x y n) = true := legal_of_class _ (by rwa [class_packXYN])

theorem legal_5 (x y : Reg) : wellFormedWord (packXYN 0x5#4 x y 0x0#4) = true := by
  simp [wellFormedWord, illegalWord, illegalClass0, illegalClass5, illegalClass8, illegalClass9, illegalClassE,
    illegalClassF, class_packXYN, low4_packXYN]

theorem legal_9 (x y : Reg) : wellFormedWord (packXYN 0x9#4 x y 0x0#4) = true := by
  simp [wellFormedWord, illegalWord, illegalClass0, illegalClass5, illegalClass8, illegalClass9, illegalClassE,
    illegalClassF, class_packXYN, low4_packXYN]

theorem legal_8 (x y : Reg) (n : Nibble) (h : n ∉ [0x8#4, 0x9#4, 0xA#4, 0xB#4, 0xC#4, 0xD#4, 0xF#4]) :
    wellFormedWord (packXYN 0x8#4 x y n) = true := by
  simp_all [wellFormedWord, illegalWord, illegalClass0, illegalClass5, illegalClass8, illegalClass9, illegalClassE,
    illegalClassF, class_packXYN, low4_packXYN]

theorem legal_E (x : Reg) (kk : Byte) (h : kk ∈ [0x9E#8, 0xA1#8]) : wellFormedWord (packXKK 0xE#4 x kk) = true := by
  simp_all [wellFormedWord, illegalWord, illegalClass0, illegalClass5, illegalClass8, illegalClass9, illegalClassE,
    illegalClassF, class_packXKK, low8_packXKK]

theorem legal_F (x : Reg) (kk : Byte)
    (h : kk ∈ [0x07#8, 0x0A#8, 0x15#8, 0x18#8, 0x1E#8, 0x29#8, 0x33#8, 0x55#8, 0x65#8]) :
    wellFormedWord (packXKK 0xF#4 x kk) = true := by
  simp_all [wellFormedWord, illegalWord, illegalClass0, illegalClass5, illegalClass8, illegalClass9, illegalClassE,
    illegalClassF, class_packXKK, low8_packXKK]

/-! ### Constructor by constructor -/

/-- What is said of every instruction: it is well-formed, and its word is not illegal (R96). -/
def Laws.EncodeWellFormed.Statement (i : Instr) : Prop := i.wellFormed = true ∧ wellFormedWord (encode i) = true

theorem Laws.EncodeWellFormed.cls : Laws.EncodeWellFormed.Statement .cls :=
  ⟨rfl, by decide⟩

theorem Laws.EncodeWellFormed.ret : Laws.EncodeWellFormed.Statement .ret :=
  ⟨rfl, by decide⟩

theorem Laws.EncodeWellFormed.jp (nnn : Addr12) : Laws.EncodeWellFormed.Statement (.jp nnn) :=
  ⟨rfl, legal_packNNN _ nnn (by decide)⟩

theorem Laws.EncodeWellFormed.call (nnn : Addr12) : Laws.EncodeWellFormed.Statement (.call nnn) :=
  ⟨rfl, legal_packNNN _ nnn (by decide)⟩

theorem Laws.EncodeWellFormed.seImm (x : Reg) (kk : Byte) : Laws.EncodeWellFormed.Statement (.seImm x kk) :=
  ⟨rfl, legal_packXKK _ x kk (by decide)⟩

theorem Laws.EncodeWellFormed.sneImm (x : Reg) (kk : Byte) : Laws.EncodeWellFormed.Statement (.sneImm x kk) :=
  ⟨rfl, legal_packXKK _ x kk (by decide)⟩

theorem Laws.EncodeWellFormed.seReg (x y : Reg) : Laws.EncodeWellFormed.Statement (.seReg x y) :=
  ⟨rfl, legal_5 x y⟩

theorem Laws.EncodeWellFormed.ldImm (x : Reg) (kk : Byte) : Laws.EncodeWellFormed.Statement (.ldImm x kk) :=
  ⟨rfl, legal_packXKK _ x kk (by decide)⟩

theorem Laws.EncodeWellFormed.addImm (x : Reg) (kk : Byte) : Laws.EncodeWellFormed.Statement (.addImm x kk) :=
  ⟨rfl, legal_packXKK _ x kk (by decide)⟩

theorem Laws.EncodeWellFormed.ldReg (x y : Reg) : Laws.EncodeWellFormed.Statement (.ldReg x y) :=
  ⟨rfl, legal_8 x y _ (by decide)⟩

theorem Laws.EncodeWellFormed.or (x y : Reg) : Laws.EncodeWellFormed.Statement (.or x y) :=
  ⟨rfl, legal_8 x y _ (by decide)⟩

theorem Laws.EncodeWellFormed.and (x y : Reg) : Laws.EncodeWellFormed.Statement (.and x y) :=
  ⟨rfl, legal_8 x y _ (by decide)⟩

theorem Laws.EncodeWellFormed.xor (x y : Reg) : Laws.EncodeWellFormed.Statement (.xor x y) :=
  ⟨rfl, legal_8 x y _ (by decide)⟩

theorem Laws.EncodeWellFormed.addReg (x y : Reg) : Laws.EncodeWellFormed.Statement (.addReg x y) :=
  ⟨rfl, legal_8 x y _ (by decide)⟩

theorem Laws.EncodeWellFormed.sub (x y : Reg) : Laws.EncodeWellFormed.Statement (.sub x y) :=
  ⟨rfl, legal_8 x y _ (by decide)⟩

theorem Laws.EncodeWellFormed.shr (x y : Reg) : Laws.EncodeWellFormed.Statement (.shr x y) :=
  ⟨rfl, legal_8 x y _ (by decide)⟩

theorem Laws.EncodeWellFormed.subn (x y : Reg) : Laws.EncodeWellFormed.Statement (.subn x y) :=
  ⟨rfl, legal_8 x y _ (by decide)⟩

theorem Laws.EncodeWellFormed.shl (x y : Reg) : Laws.EncodeWellFormed.Statement (.shl x y) :=
  ⟨rfl, legal_8 x y _ (by decide)⟩

theorem Laws.EncodeWellFormed.sneReg (x y : Reg) : Laws.EncodeWellFormed.Statement (.sneReg x y) :=
  ⟨rfl, legal_9 x y⟩

theorem Laws.EncodeWellFormed.ldI (nnn : Addr12) : Laws.EncodeWellFormed.Statement (.ldI nnn) :=
  ⟨rfl, legal_packNNN _ nnn (by decide)⟩

theorem Laws.EncodeWellFormed.jpV0 (nnn : Addr12) : Laws.EncodeWellFormed.Statement (.jpV0 nnn) :=
  ⟨rfl, legal_packNNN _ nnn (by decide)⟩

theorem Laws.EncodeWellFormed.rnd (x : Reg) (kk : Byte) : Laws.EncodeWellFormed.Statement (.rnd x kk) :=
  ⟨rfl, legal_packXKK _ x kk (by decide)⟩

theorem Laws.EncodeWellFormed.drw (x y : Reg) (n : Nibble) : Laws.EncodeWellFormed.Statement (.drw x y n) :=
  ⟨rfl, legal_packXYN _ x y n (by decide)⟩

theorem Laws.EncodeWellFormed.skp (x : Reg) : Laws.EncodeWellFormed.Statement (.skp x) :=
  ⟨rfl, legal_E x _ (by decide)⟩

theorem Laws.EncodeWellFormed.sknp (x : Reg) : Laws.EncodeWellFormed.Statement (.sknp x) :=
  ⟨rfl, legal_E x _ (by decide)⟩

theorem Laws.EncodeWellFormed.ldVxDt (x : Reg) : Laws.EncodeWellFormed.Statement (.ldVxDt x) :=
  ⟨rfl, legal_F x _ (by decide)⟩

theorem Laws.EncodeWellFormed.ldVxK (x : Reg) : Laws.EncodeWellFormed.Statement (.ldVxK x) :=
  ⟨rfl, legal_F x _ (by decide)⟩

theorem Laws.EncodeWellFormed.ldDtVx (x : Reg) : Laws.EncodeWellFormed.Statement (.ldDtVx x) :=
  ⟨rfl, legal_F x _ (by decide)⟩

theorem Laws.EncodeWellFormed.ldStVx (x : Reg) : Laws.EncodeWellFormed.Statement (.ldStVx x) :=
  ⟨rfl, legal_F x _ (by decide)⟩

theorem Laws.EncodeWellFormed.addI (x : Reg) : Laws.EncodeWellFormed.Statement (.addI x) :=
  ⟨rfl, legal_F x _ (by decide)⟩

theorem Laws.EncodeWellFormed.ldF (x : Reg) : Laws.EncodeWellFormed.Statement (.ldF x) :=
  ⟨rfl, legal_F x _ (by decide)⟩

theorem Laws.EncodeWellFormed.ldB (x : Reg) : Laws.EncodeWellFormed.Statement (.ldB x) :=
  ⟨rfl, legal_F x _ (by decide)⟩

theorem Laws.EncodeWellFormed.storeRegs (x : Reg) : Laws.EncodeWellFormed.Statement (.storeRegs x) :=
  ⟨rfl, legal_F x _ (by decide)⟩

theorem Laws.EncodeWellFormed.loadRegs (x : Reg) : Laws.EncodeWellFormed.Statement (.loadRegs x) :=
  ⟨rfl, legal_F x _ (by decide)⟩

end Sys2Proof
end

