-- ==== Sys2Proof/Laws/Step.lean ====
section
/-! SUPPORT. What stages 0 to 2 of a step can come to (spec/30_encoding.md R94), and a countdown in numbers. -/

namespace Sys2Proof.Machine

/-- Stage 0: nothing is fetched exactly when the block is faulted (R209). -/
theorem State.fetch_eq_halted {s : State} : s.fetch = .halted ↔ s.faulted = true := by
  unfold State.fetch
  cases hf : s.faulted
  · refine iff_of_false ?_ (by simp)
    simp only [Bool.false_eq_true, if_false]
    split <;> try simp
    split <;> simp
  · simp

/-- Stages 1 and 2 pass: an instruction runs exactly when both its bytes are in range and spell it (R94). -/
theorem State.fetch_eq_run {s : State} {i : Instr} :
    s.fetch = .run i ↔ s.faulted = false ∧ s.pc.toNat + 1 < memSize ∧ decodeWord s.wordAtPc = some i := by
  unfold State.fetch
  cases hf : s.faulted
  · simp only [Bool.false_eq_true, if_false, true_and]
    cases hc : checkRange s.pc 2 with
    | some f =>
      have := (checkRange_eq_some.1 hc).2.1
      exact iff_of_false (by simp) (by omega)
    | none =>
      have hp : s.pc.toNat + 1 < memSize := by have := checkRange_eq_none.1 hc; omega
      cases decodeWord s.wordAtPc <;> simp [hp]
  · simp

/-- Stage 1 or 2 raises: the fetch past the end with no word, or the decoder with the word it does not know (R94, R207). -/
theorem State.fetch_eq_raised {s : State} {op : Word} {f : Fault} :
    s.fetch = .raised op f ↔ s.faulted = false ∧
      ((memSize ≤ s.pc.toNat + 1 ∧ op = 0#16 ∧ f = .outOfBounds (BitVec.ofNat 16 (max s.pc.toNat memSize))) ∨
       (s.pc.toNat + 1 < memSize ∧ decodeWord s.wordAtPc = none ∧ op = s.wordAtPc ∧ f = .unknownOpcode)) := by
  unfold State.fetch
  cases hf : s.faulted
  · simp only [Bool.false_eq_true, if_false, true_and]
    cases hc : checkRange s.pc 2 with
    | some g =>
      obtain ⟨-, hp, rfl⟩ := checkRange_eq_some.1 hc
      have hp' : ¬ s.pc.toNat + 1 < memSize := by omega
      simp only [Fetched.raised.injEq, hp', false_and, or_false]
      constructor
      · rintro ⟨rfl, rfl⟩; exact ⟨by omega, rfl, rfl⟩
      · rintro ⟨-, rfl, rfl⟩; exact ⟨rfl, rfl⟩
    | none =>
      have hp : s.pc.toNat + 1 < memSize := by have := checkRange_eq_none.1 hc; omega
      have hp' : ¬ memSize ≤ s.pc.toNat + 1 := by omega
      cases hd : decodeWord s.wordAtPc with
      | some i => simp [hp']
      | none =>
        simp only [Fetched.raised.injEq, hp, hp', false_and, true_and, false_or]
        exact ⟨fun h => ⟨h.1.symm, h.2.symm⟩, fun h => ⟨h.1.symm, h.2.symm⟩⟩
  · simp

/-- One countdown in numbers: minus 1, not below 0 (R213). -/
theorem toNat_countDown (b : Byte) : (countDown b).toNat = b.toNat - 1 := by
  unfold countDown
  split
  case isTrue h => subst h; rfl
  case isFalse h =>
    have hb : b.toNat ≠ 0 := fun h0 => h (BitVec.eq_of_toNat_eq h0)
    rw [BitVec.toNat_sub_of_le (by rw [BitVec.le_def]; simpa using Nat.one_le_iff_ne_zero.2 hb)]
    rfl

end Sys2Proof.Machine
end

