-- ==== Sys2Proof/Tests/Slice0.lean ====
section
/-! SUPPORT. The model's own tests. Expected values are those of spec/95_test_vectors.md (the vector is named in the
theorem's comment) or are worked by hand from the rule named; then one witness for every obligation with hypotheses. -/

namespace Sys2Proof.Tests

open Sys2Proof Sys2Proof.Machine

/-! ### Helpers -/

/-- The reset state with one instruction word at PC. -/
def word (w : Word) : State := State.reset.placeWord w

/-- A state with registers set. -/
def vs (s : State) (l : List (Reg × Byte)) : State := l.foldl (fun s p => s.setReg p.1 p.2) s

/-- A state with bytes stored from an address. -/
def bytesAt (s : State) (a : Nat) (l : List Byte) : State := s.setMem (s.mem.writeBytes a l)

/-- An answer that is a next state with a property. -/
def nextSat (o : Answer) (p : State → Bool) : Bool :=
  match o with
  | .next t => p t
  | .fault _ => false
  | .refused _ => false

/-- An answer that is exactly this next state. -/
def isNext (o : Answer) (u : State) : Bool := nextSat o fun t => decide (t = u)

/-- The latch of a fault with cause, pc, op and address. -/
def latch (c : FaultCause) (pc op addr : Word) : FaultLatch := { cause := c, pc := pc, op := op, addr := addr }

/-- Every quirk on. -/
def quirks : Config :=
  { quirkLogicClearsVf := true, quirkShiftUsesVy := true, quirkLoadstoreIncI := true, keyPick := .lowest }

/-- Sixteen registers 10, 11, ..., 1F (vector G16). -/
def tens : Vector Byte 16 := Vector.ofFn fun k => BitVec.ofNat 8 (0x10 + k.val)

/-! ### WellFormed smoke: for each check of R96 an ill-formed word that it refuses, and a neighbour that it lets pass -/

theorem test_illegal_class0 : illegalClass0 0x0001#16 = true ∧ wellFormedWord 0x0001#16 = false ∧
    wellFormedWord 0x00E1#16 = false ∧ wellFormedWord 0x00E0#16 = true ∧ wellFormedWord 0x00EE#16 = true := by decide

theorem test_illegal_class5 : illegalClass5 0x5121#16 = true ∧ wellFormedWord 0x5121#16 = false ∧
    wellFormedWord 0x5120#16 = true := by decide

theorem test_illegal_class8 : illegalClass8 0x8008#16 = true ∧ wellFormedWord 0x801D#16 = false ∧
    wellFormedWord 0x800F#16 = false ∧ wellFormedWord 0x800E#16 = true ∧ wellFormedWord 0x8007#16 = true := by decide

theorem test_illegal_class9 : illegalClass9 0x912F#16 = true ∧ wellFormedWord 0x912F#16 = false ∧
    wellFormedWord 0x9120#16 = true := by decide

theorem test_illegal_classE : illegalClassE 0xE29F#16 = true ∧ wellFormedWord 0xE2A0#16 = false ∧
    wellFormedWord 0xE29E#16 = true ∧ wellFormedWord 0xE2A1#16 = true := by decide

theorem test_illegal_classF : illegalClassF 0xF066#16 = true ∧ wellFormedWord 0xF075#16 = false ∧
    wellFormedWord 0xF065#16 = true ∧ wellFormedWord 0xFF07#16 = true := by decide

theorem test_instr_wellFormed : Instr.wellFormed (.drw 15 0 0xF#4) = true ∧ Instr.wellFormed .cls = true := by decide

/-! ### Decoding: for every row a word written out from R92 and R95, its match, its instruction and its encoding -/

theorem test_decode_cls : 0x00E0#16 &&& 0xFFFF#16 = 0x00E0#16 ∧ decodeWord 0x00E0#16 = some .cls ∧
    encode .cls = 0x00E0#16 := by decide
theorem test_decode_ret : 0x00EE#16 &&& 0xFFFF#16 = 0x00EE#16 ∧ decodeWord 0x00EE#16 = some .ret ∧
    encode .ret = 0x00EE#16 := by decide
theorem test_decode_jp : 0x1ABC#16 &&& 0xF000#16 = 0x1000#16 ∧ decodeWord 0x1ABC#16 = some (.jp 0xABC#12) ∧
    encode (.jp 0xABC#12) = 0x1ABC#16 := by decide
theorem test_decode_call : 0x2208#16 &&& 0xF000#16 = 0x2000#16 ∧ decodeWord 0x2208#16 = some (.call 0x208#12) ∧
    encode (.call 0x208#12) = 0x2208#16 := by decide
theorem test_decode_seImm : 0x3F01#16 &&& 0xF000#16 = 0x3000#16 ∧ decodeWord 0x3F01#16 = some (.seImm 15 0x01#8) ∧
    encode (.seImm 15 0x01#8) = 0x3F01#16 := by decide
theorem test_decode_sneImm : 0x41A9#16 &&& 0xF000#16 = 0x4000#16 ∧ decodeWord 0x41A9#16 = some (.sneImm 1 0xA9#8) ∧
    encode (.sneImm 1 0xA9#8) = 0x41A9#16 := by decide
theorem test_decode_seReg : 0x5120#16 &&& 0xF00F#16 = 0x5000#16 ∧ decodeWord 0x5120#16 = some (.seReg 1 2) ∧
    encode (.seReg 1 2) = 0x5120#16 := by decide
theorem test_decode_ldImm : 0x6AFF#16 &&& 0xF000#16 = 0x6000#16 ∧ decodeWord 0x6AFF#16 = some (.ldImm 10 0xFF#8) ∧
    encode (.ldImm 10 0xFF#8) = 0x6AFF#16 := by decide
theorem test_decode_addImm : 0x7003#16 &&& 0xF000#16 = 0x7000#16 ∧ decodeWord 0x7003#16 = some (.addImm 0 0x03#8) ∧
    encode (.addImm 0 0x03#8) = 0x7003#16 := by decide
theorem test_decode_ldReg : 0x8F10#16 &&& 0xF00F#16 = 0x8000#16 ∧ decodeWord 0x8F10#16 = some (.ldReg 15 1) ∧
    encode (.ldReg 15 1) = 0x8F10#16 := by decide
theorem test_decode_or : 0x8121#16 &&& 0xF00F#16 = 0x8001#16 ∧ decodeWord 0x8121#16 = some (.or 1 2) ∧
    encode (.or 1 2) = 0x8121#16 := by decide
theorem test_decode_and : 0x8342#16 &&& 0xF00F#16 = 0x8002#16 ∧ decodeWord 0x8342#16 = some (.and 3 4) ∧
    encode (.and 3 4) = 0x8342#16 := by decide
theorem test_decode_xor : 0x8563#16 &&& 0xF00F#16 = 0x8003#16 ∧ decodeWord 0x8563#16 = some (.xor 5 6) ∧
    encode (.xor 5 6) = 0x8563#16 := by decide
theorem test_decode_addReg : 0x8124#16 &&& 0xF00F#16 = 0x8004#16 ∧ decodeWord 0x8124#16 = some (.addReg 1 2) ∧
    encode (.addReg 1 2) = 0x8124#16 := by decide
theorem test_decode_sub : 0x8125#16 &&& 0xF00F#16 = 0x8005#16 ∧ decodeWord 0x8125#16 = some (.sub 1 2) ∧
    encode (.sub 1 2) = 0x8125#16 := by decide
theorem test_decode_shr : 0x8AB6#16 &&& 0xF00F#16 = 0x8006#16 ∧ decodeWord 0x8AB6#16 = some (.shr 10 11) ∧
    encode (.shr 10 11) = 0x8AB6#16 := by decide
theorem test_decode_subn : 0x8127#16 &&& 0xF00F#16 = 0x8007#16 ∧ decodeWord 0x8127#16 = some (.subn 1 2) ∧
    encode (.subn 1 2) = 0x8127#16 := by decide
theorem test_decode_shl : 0x812E#16 &&& 0xF00F#16 = 0x800E#16 ∧ decodeWord 0x812E#16 = some (.shl 1 2) ∧
    encode (.shl 1 2) = 0x812E#16 := by decide
theorem test_decode_sneReg : 0x9780#16 &&& 0xF00F#16 = 0x9000#16 ∧ decodeWord 0x9780#16 = some (.sneReg 7 8) ∧
    encode (.sneReg 7 8) = 0x9780#16 := by decide
theorem test_decode_ldI : 0xA123#16 &&& 0xF000#16 = 0xA000#16 ∧ decodeWord 0xA123#16 = some (.ldI 0x123#12) ∧
    encode (.ldI 0x123#12) = 0xA123#16 := by decide
theorem test_decode_jpV0 : 0xBFFF#16 &&& 0xF000#16 = 0xB000#16 ∧ decodeWord 0xBFFF#16 = some (.jpV0 0xFFF#12) ∧
    encode (.jpV0 0xFFF#12) = 0xBFFF#16 := by decide
theorem test_decode_rnd : 0xC30F#16 &&& 0xF000#16 = 0xC000#16 ∧ decodeWord 0xC30F#16 = some (.rnd 3 0x0F#8) ∧
    encode (.rnd 3 0x0F#8) = 0xC30F#16 := by decide
theorem test_decode_drw : 0xD345#16 &&& 0xF000#16 = 0xD000#16 ∧ decodeWord 0xD345#16 = some (.drw 3 4 5#4) ∧
    encode (.drw 3 4 5#4) = 0xD345#16 := by decide
theorem test_decode_skp : 0xE29E#16 &&& 0xF0FF#16 = 0xE09E#16 ∧ decodeWord 0xE29E#16 = some (.skp 2) ∧
    encode (.skp 2) = 0xE29E#16 := by decide
theorem test_decode_sknp : 0xEDA1#16 &&& 0xF0FF#16 = 0xE0A1#16 ∧ decodeWord 0xEDA1#16 = some (.sknp 13) ∧
    encode (.sknp 13) = 0xEDA1#16 := by decide
theorem test_decode_ldVxDt : 0xF307#16 &&& 0xF0FF#16 = 0xF007#16 ∧ decodeWord 0xF307#16 = some (.ldVxDt 3) ∧
    encode (.ldVxDt 3) = 0xF307#16 := by decide
theorem test_decode_ldVxK : 0xF30A#16 &&& 0xF0FF#16 = 0xF00A#16 ∧ decodeWord 0xF30A#16 = some (.ldVxK 3) ∧
    encode (.ldVxK 3) = 0xF30A#16 := by decide
theorem test_decode_ldDtVx : 0xF315#16 &&& 0xF0FF#16 = 0xF015#16 ∧ decodeWord 0xF315#16 = some (.ldDtVx 3) ∧
    encode (.ldDtVx 3) = 0xF315#16 := by decide
theorem test_decode_ldStVx : 0xFE18#16 &&& 0xF0FF#16 = 0xF018#16 ∧ decodeWord 0xFE18#16 = some (.ldStVx 14) ∧
    encode (.ldStVx 14) = 0xFE18#16 := by decide
theorem test_decode_addI : 0xF11E#16 &&& 0xF0FF#16 = 0xF01E#16 ∧ decodeWord 0xF11E#16 = some (.addI 1) ∧
    encode (.addI 1) = 0xF11E#16 := by decide
theorem test_decode_ldF : 0xF929#16 &&& 0xF0FF#16 = 0xF029#16 ∧ decodeWord 0xF929#16 = some (.ldF 9) ∧
    encode (.ldF 9) = 0xF929#16 := by decide
theorem test_decode_ldB : 0xF333#16 &&& 0xF0FF#16 = 0xF033#16 ∧ decodeWord 0xF333#16 = some (.ldB 3) ∧
    encode (.ldB 3) = 0xF333#16 := by decide
theorem test_decode_storeRegs : 0xFF55#16 &&& 0xF0FF#16 = 0xF055#16 ∧ decodeWord 0xFF55#16 = some (.storeRegs 15) ∧
    encode (.storeRegs 15) = 0xFF55#16 := by decide
theorem test_decode_loadRegs : 0xF265#16 &&& 0xF0FF#16 = 0xF065#16 ∧ decodeWord 0xF265#16 = some (.loadRegs 2) ∧
    encode (.loadRegs 2) = 0xF265#16 := by decide

/-- The reading of a row of spec/opcode_table.json: bit 0 is the least significant bit of the word; the hardware stores
the high byte first (R65). -/
theorem test_decodeTableWord : decodeTableWord 16 0x6005 = some (.ldImm 0 0x05#8) ∧ decodeTableWord 16 0x0000 = none ∧
    decode [0x60#8, 0x05#8] = .ok (.ldImm 0 0x05#8, []) ∧ decode [0x60#8] = .error .tooShort := by decide

/-! ### Arithmetic and logic -/

/-- A2. -/
theorem test_ldImm : nextSat (step (word 0x6F07#16)) (fun t => t.reg VF == 0x07#8 && t.pc == 0x202#16) = true := by
  decide
/-- A4. -/
theorem test_addImm_wraps : nextSat (step (vs (word 0x7101#16) [(1, 0xFF#8)]))
    (fun t => t.reg 1 == 0x00#8 && t.reg VF == 0x00#8 && t.pc == 0x202#16) = true := by decide
/-- A9. -/
theorem test_ldReg : nextSat (step (vs (word 0x81F0#16) [(15, 0x01#8)]))
    (fun t => t.reg 1 == 0x01#8 && t.reg VF == 0x01#8) = true := by decide
/-- A15. -/
theorem test_or : nextSat (step (vs (word 0x8F21#16) [(15, 0x01#8), (2, 0x0A#8)])) (fun t => t.reg VF == 0x0B#8) = true := by
  decide
/-- A11. -/
theorem test_or_quirk : nextSat (step { vs (word 0x8121#16) [(1, 0xF0#8), (2, 0x0F#8), (15, 0x01#8)] with cfg := quirks })
    (fun t => t.reg 1 == 0xFF#8 && t.reg VF == 0x00#8) = true := by decide
/-- A12. -/
theorem test_and : nextSat (step (vs (word 0x8122#16) [(1, 0xF0#8), (2, 0x3C#8)])) (fun t => t.reg 1 == 0x30#8) = true := by
  decide
/-- A17. -/
theorem test_and_quirk : nextSat (step { vs (word 0x81F2#16) [(1, 0xFF#8), (15, 0x03#8)] with cfg := quirks })
    (fun t => t.reg 1 == 0x03#8 && t.reg VF == 0x00#8) = true := by decide
/-- A13. -/
theorem test_xor : nextSat (step (vs (word 0x8123#16) [(1, 0xF0#8), (2, 0x3C#8)])) (fun t => t.reg 1 == 0xCC#8) = true := by
  decide
/-- A16. -/
theorem test_xor_quirk : nextSat (step { vs (word 0x8F23#16) [(15, 0x0F#8), (2, 0xF0#8)] with cfg := quirks })
    (fun t => t.reg VF == 0x00#8) = true := by decide
/-- A18 (source T4). -/
theorem test_addReg : nextSat (step (vs (word 0x8124#16) [(1, 0xFF#8), (2, 0x01#8)]))
    (fun t => t.reg 1 == 0x00#8 && t.reg VF == 0x01#8 && t.pc == 0x202#16) = true := by decide
/-- A24. -/
theorem test_addReg_vf : nextSat (step (vs (word 0x8F14#16) [(15, 0x01#8), (1, 0x02#8)])) (fun t => t.reg VF == 0x00#8) = true := by
  decide
/-- A27 (source T4). -/
theorem test_sub : nextSat (step (vs (word 0x8125#16) [(1, 0x01#8), (2, 0x02#8)]))
    (fun t => t.reg 1 == 0xFF#8 && t.reg VF == 0x00#8) = true := by decide
/-- A34. -/
theorem test_sub_vf : nextSat (step (vs (word 0x81F5#16) [(1, 0x05#8), (15, 0x01#8)]))
    (fun t => t.reg 1 == 0x04#8 && t.reg VF == 0x01#8) = true := by decide
/-- A35. -/
theorem test_subn : nextSat (step (vs (word 0x8127#16) [(1, 0x02#8), (2, 0x05#8)]))
    (fun t => t.reg 1 == 0x03#8 && t.reg VF == 0x01#8) = true := by decide
/-- A36. -/
theorem test_subn_borrow : nextSat (step (vs (word 0x8127#16) [(1, 0x02#8), (2, 0x01#8)]))
    (fun t => t.reg 1 == 0xFF#8 && t.reg VF == 0x00#8) = true := by decide
/-- A43. -/
theorem test_shr_vf : nextSat (step (vs (word 0x8F06#16) [(15, 0xFF#8)])) (fun t => t.reg VF == 0x00#8) = true := by decide
/-- A53. -/
theorem test_shr_quirk : nextSat (step { vs (word 0x81F6#16) [(15, 0x03#8)] with cfg := quirks })
    (fun t => t.reg VF == 0x01#8 && t.reg 1 == 0x00#8) = true := by decide
/-- A45. -/
theorem test_shl : nextSat (step (vs (word 0x810E#16) [(1, 0x81#8)])) (fun t => t.reg 1 == 0x02#8 && t.reg VF == 0x01#8) = true := by
  decide
/-- A51. -/
theorem test_shl_quirk : nextSat (step { vs (word 0x812E#16) [(1, 0xAA#8), (2, 0xC1#8)] with cfg := quirks })
    (fun t => t.reg 1 == 0x82#8 && t.reg 2 == 0xC1#8 && t.reg VF == 0x01#8) = true := by decide
/-- A57 to A60, for every value of the draw: Vx is the draw AND kk, and the counter advances. -/
theorem test_rnd : ∃ t : State, step (word 0xC30F#16) = .next t ∧ t.reg 3 = Config.rnd 0 &&& 0x0F#8 ∧
    t.draws = 1 ∧ t.pc = 0x202#16 := ⟨_, rfl, rfl, rfl, rfl⟩

/-! ### Control flow -/

/-- B3. -/
theorem test_ret : nextSat (step { word 0x00EE#16 with sp := 16, stack := State.reset.stack.set 15 0x0ABC#16 })
    (fun t => t.pc == 0xABC#16 && t.sp == 15 && t.stack[15] == 0x0ABC#16) = true := by decide
/-- B2. -/
theorem test_ret_underflow : isNext (step (word 0x00EE#16))
    { word 0x00EE#16 with fault := latch .stackUnderflow 0x200#16 0x00EE#16 0#16 } = true := by decide
/-- B6. -/
theorem test_jp_odd : nextSat (step (word 0x1203#16)) (fun t => t.pc == 0x203#16 && !t.faulted) = true := by decide
/-- B8. -/
theorem test_call : nextSat (step { word 0x2208#16 with sp := 15 })
    (fun t => t.pc == 0x208#16 && t.sp == 16 && t.stack[15] == 0x0202#16) = true := by decide
/-- B9. -/
theorem test_call_overflow : isNext (step { word 0x2208#16 with sp := 16 })
    { word 0x2208#16 with sp := 16, fault := latch .stackOverflow 0x200#16 0x2208#16 0#16 } = true := by decide
/-- B13. -/
theorem test_seImm_taken : nextSat (step (vs (word 0x3F01#16) [(15, 0x01#8)])) (fun t => t.pc == 0x204#16) = true := by
  decide
/-- B12, at 0x200. -/
theorem test_seImm_not : nextSat (step (vs (word 0x3100#16) [(1, 0x09#8)])) (fun t => t.pc == 0x202#16) = true := by decide
/-- B15 and B16, at 0x200. -/
theorem test_sneImm : nextSat (step (vs (word 0x4100#16) [(1, 0x09#8)])) (fun t => t.pc == 0x204#16) = true ∧
    nextSat (step (word 0x4100#16)) (fun t => t.pc == 0x202#16) = true := by decide
/-- B17 and B18. -/
theorem test_seReg : nextSat (step (vs (word 0x5120#16) [(1, 0x07#8), (2, 0x07#8)])) (fun t => t.pc == 0x204#16) = true ∧
    nextSat (step (vs (word 0x5120#16) [(1, 0x07#8), (2, 0x08#8)])) (fun t => t.pc == 0x202#16) = true := by decide
/-- B21 and B22. -/
theorem test_sneReg : nextSat (step (vs (word 0x9120#16) [(1, 0x07#8), (2, 0x08#8)])) (fun t => t.pc == 0x204#16) = true ∧
    nextSat (step (vs (word 0x9120#16) [(1, 0x07#8), (2, 0x07#8)])) (fun t => t.pc == 0x202#16) = true := by decide
/-- B28. -/
theorem test_jpV0 : nextSat (step (vs (word 0xBFFF#16) [(0, 0xFF#8)])) (fun t => t.pc == 0x10FE#16 && !t.faulted) = true := by
  decide

/-! ### Index register -/

/-- C2. -/
theorem test_ldI : nextSat (step (word 0xAFFF#16)) (fun t => t.i == 0x0FFF#16 && t.pc == 0x202#16) = true := by decide
/-- C6. -/
theorem test_addI_wraps : nextSat (step { vs (word 0xF11E#16) [(1, 0x02#8)] with i := 0xFFFF#16 })
    (fun t => t.i == 0x0001#16 && t.reg VF == 0#8 && t.pc == 0x202#16) = true := by decide
/-- C11. -/
theorem test_ldF : nextSat (step (vs (word 0xF129#16) [(1, 0x1A#8)])) (fun t => t.i == 0x0032#16) = true := by decide

/-! ### Display -/

/-- R151. -/
theorem test_cls : nextSat (step { word 0x00E0#16 with fb := Vector.replicate 32 0xFFFFFFFFFFFFFFFF#64 })
    (fun t => t.fb == Framebuffer.blank && t.pc == 0x202#16) = true := by decide
/-- D5: the sprite row wraps from column 63 to column 0 in row 31. -/
theorem test_drw_wraps : nextSat (step { bytesAt (vs (word 0xD011#16) [(0, 0xFF#8), (1, 0xFF#8)]) 0x300 [0xC0#8] with i := 0x300#16 })
    (fun t => t.fb == Framebuffer.blank.set 31 0x8000000000000001#64 && t.reg VF == 0#8) = true := by
  set_option maxRecDepth 10000 in decide
/-- D7, the second draw: partial overlap, (2,0) and (3,0) turned off. -/
theorem test_drw_collides : nextSat (step { bytesAt (word 0xD011#16) 0x300 [0x3C#8] with
      i := 0x300#16, fb := Framebuffer.blank.set 0 0xF#64 })
    (fun t => t.fb == Framebuffer.blank.set 0 0x33#64 && t.reg VF == 1#8 && t.pc == 0x202#16) = true := by
  set_option maxRecDepth 10000 in decide
/-- D11. -/
theorem test_drw_out_of_bounds : isNext (step { vs (word 0xD015#16) [(15, 0x07#8)] with i := 0xFFC#16 })
    { vs (word 0xD015#16) [(15, 0x07#8)] with
      i := 0xFFC#16, fault := latch .outOfBounds 0x200#16 0xD015#16 0x1000#16 } = true := by decide

/-! ### Timers -/

/-- E1. -/
theorem test_ldVxDt : nextSat (step { word 0xF307#16 with dt := 0x2A#8 })
    (fun t => t.reg 3 == 0x2A#8 && t.dt == 0x2A#8 && t.pc == 0x202#16) = true := by decide
/-- E3. -/
theorem test_ldDtVx : nextSat (step (vs (word 0xF315#16) [(3, 0x3C#8)])) (fun t => t.dt == 0x3C#8 && t.st == 0#8) = true := by
  decide
/-- E5. -/
theorem test_ldStVx : nextSat (step (vs (word 0xF318#16) [(3, 0x02#8)]))
    (fun t => t.st == 0x02#8 && t.soundActive && t.dt == 0#8) = true := by decide
/-- E10 and E12. -/
theorem test_tick : ({ State.reset with dt := 0x03#8, st := 0x01#8 }).tick = { State.reset with dt := 0x02#8 } ∧
    State.reset.tick = State.reset := by decide

/-! ### Input -/

/-- F3. -/
theorem test_skp : nextSat (step { vs (word 0xE29E#16) [(2, 0x17#8)] with keys := 0x0080#16 }) (fun t => t.pc == 0x204#16) = true := by
  decide
/-- F4. -/
theorem test_skp_other_key : nextSat (step { vs (word 0xE29E#16) [(2, 0x07#8)] with keys := 0x0100#16 })
    (fun t => t.pc == 0x202#16) = true := by decide
/-- F5. -/
theorem test_sknp : nextSat (step (vs (word 0xE2A1#16) [(2, 0x07#8)])) (fun t => t.pc == 0x204#16) = true := by decide
/-- F7. -/
theorem test_sknp_pressed : nextSat (step { vs (word 0xE2A1#16) [(2, 0xF7#8)] with keys := 0x0080#16 })
    (fun t => t.pc == 0x202#16) = true := by decide
/-- F9. -/
theorem test_ldVxK_waits : isNext (step (vs (word 0xF30A#16) [(3, 0x55#8)])) (vs (word 0xF30A#16) [(3, 0x55#8)]) = true := by decide
/-- F11. -/
theorem test_ldVxK_lowest : nextSat (step { word 0xF30A#16 with keys := 0x1208#16 })
    (fun t => t.reg 3 == 0x03#8 && t.pc == 0x202#16) = true := by decide
/-- F15. -/
theorem test_set_key : (State.reset.setKey 4 true).keys = 0x0010#16 ∧
    ((State.reset.setKey 4 true).setKey 4 true).keys = 0x0010#16 ∧
    ((State.reset.setKey 4 true).setKey 4 false) = State.reset := by decide

/-! ### BCD and register arrays -/

/-- G9. -/
theorem test_ldB : nextSat (step { vs (word 0xF333#16) [(3, 0xEA#8)] with i := 0x300#16 })
    (fun t => t.mem.readBytes 0x300 3 == [2#8, 3#8, 4#8] && t.i == 0x300#16 && t.pc == 0x202#16) = true := by decide
/-- G13. -/
theorem test_ldB_out_of_bounds : isNext (step { vs (word 0xF333#16) [(3, 0xFF#8)] with i := 0xFFE#16 })
    { vs (word 0xF333#16) [(3, 0xFF#8)] with
      i := 0xFFE#16, fault := latch .outOfBounds 0x200#16 0xF333#16 0x1000#16 } = true := by decide
/-- G14. -/
theorem test_storeRegs : nextSat (step { word 0xF355#16 with v := tens, i := 0x300#16 })
    (fun t => t.mem.readBytes 0x300 5 == [0x10#8, 0x11#8, 0x12#8, 0x13#8, 0x00#8] && t.i == 0x300#16) = true := by decide
/-- G17 and, for I, R166 with the quirk: 0xFF0 + 16. -/
theorem test_storeRegs_last : nextSat (step { word 0xFF55#16 with v := tens, i := 0xFF0#16, cfg := quirks })
    (fun t => t.mem.readBytes 0xFF0 16 == tens.toList && t.i == 0x1000#16 && !t.faulted) = true := by decide
/-- G23: the first font bytes. -/
theorem test_loadRegs : nextSat (step (word 0xFF65#16)) (fun t => t.v.toList ==
    [0xF0#8, 0x90#8, 0x90#8, 0x90#8, 0xF0#8, 0x20#8, 0x60#8, 0x20#8, 0x20#8, 0x70#8, 0xF0#8, 0x10#8, 0xF0#8, 0x80#8, 0xF0#8, 0xF0#8]) = true := by
  decide
/-- G24. -/
theorem test_loadRegs_out_of_bounds : isNext (step { vs (word 0xF365#16) [(0, 0x09#8)] with i := 0xFFD#16 })
    { vs (word 0xF365#16) [(0, 0x09#8)] with
      i := 0xFFD#16, fault := latch .outOfBounds 0x200#16 0xF365#16 0x1000#16 } = true := by decide

/-! ### Fetch, faults and host operations -/

/-- H2. -/
theorem test_fetch_past_end : isNext (step { State.reset with pc := 0xFFF#16 })
    { State.reset with pc := 0xFFF#16, fault := latch .outOfBounds 0xFFF#16 0#16 0x1000#16 } = true := by decide
/-- H4, then H6: `skip` accepted once. -/
theorem test_unknown_and_skip : isNext (step State.reset)
    { State.reset with fault := latch .unknownOpcode 0x200#16 0x0000#16 0#16 } = true ∧
    ({ State.reset with fault := latch .unknownOpcode 0x200#16 0x0000#16 0#16 }).skip =
      { State.reset with pc := 0x202#16 } ∧
    ({ State.reset with pc := 0x202#16 }).skipAccepted = false := by decide
/-- H1. -/
theorem test_last_fetchable : nextSat (step (({ State.reset with pc := 0xFFE#16 }).placeWord 0x6000#16))
    (fun t => t.pc == 0x1000#16 && !t.faulted) = true := by decide
/-- T1: the ROM `60 05 70 03 12 00` as loaded, and its first step. -/
theorem test_load : (State.reset.loadRom [0x60#8, 0x05#8, 0x70#8, 0x03#8, 0x12#8, 0x00#8]).mem.readBytes 0x200 6 =
      [0x60#8, 0x05#8, 0x70#8, 0x03#8, 0x12#8, 0x00#8] ∧
    nextSat (step (State.reset.loadRom [0x60#8, 0x05#8, 0x70#8, 0x03#8, 0x12#8, 0x00#8]))
      (fun t => t.reg 0 == 0x05#8 && t.pc == 0x202#16) = true := by decide
/-- I6 and I7. -/
theorem test_font : State.reset.mem.readBytes 0 5 = [0xF0#8, 0x90#8, 0x90#8, 0x90#8, 0xF0#8] ∧
    State.reset.mem.readBytes 0x4B 5 = [0xF0#8, 0x80#8, 0xF0#8, 0x80#8, 0x80#8] := by decide
/-- R151: the operation `step` replies with the report; H4: with the fault. -/
theorem test_step_reply :
    (∃ b : Block, (word 0x00E0#16).apply .step = .next (b, .stepped { displayModified := true, fault := .none })) ∧
    (∃ b : Block, State.reset.apply .step = .next (b, .stepped { displayModified := false, fault := .unknownOpcode })) :=
  ⟨⟨_, rfl⟩, ⟨_, rfl⟩⟩
/-- R31 and R200. -/
theorem test_cause_codes : [FaultCause.none, .outOfBounds, .stackOverflow, .stackUnderflow, .unknownOpcode].map
    FaultCause.code = [0#3, 1#3, 2#3, 3#3, 4#3] := by decide
/-- R36. -/
theorem test_never_reset : Block.apply Config.default .neverReset .step = .refused .neverReset := rfl

/-! ### Witnesses: for every obligation with hypotheses, concrete values that meet them all, clause by clause, at the
boundary of their ranges. The rows of the opcode map (`spells`) have theirs in the decode tests above. -/

/-- A state with a full stack. -/
def full : State := { State.reset with sp := 16, stack := Vector.replicate 16 0x0202#16 }

/-- The state `step` leaves after reset with no ROM: faulted with `UnknownOpcode`. -/
def faulted : State := { State.reset with fault := latch .unknownOpcode 0x200#16 0x0000#16 0#16 }

theorem witness_DecodeOfEncodeIsTheInstruction : Instr.wellFormed (.drw 15 0 0xF#4) = true ∧
    Instr.wellFormed (.jp 0xFFF#12) = true := by decide

theorem witness_EncodeOfDecodeIsTheWord : decodeWord 0xDF0F#16 = some (.drw 15 0 0xF#4) := by decide

theorem witness_EveryWordMatchesAtMostOneRow : ∃ r : OpcodeRow, r ∈ opcodeTable ∧
    opcodeTable[(33 : Fin 34).val]? = some r ∧ 0xFF65#16 &&& r.mask = r.pattern :=
  ⟨⟨0xF0FF#16, 0xF065#16, fun w => .loadRegs (fieldX w)⟩, by simp [opcodeTable, opcodeRowsD], rfl, by decide⟩

theorem witness_IllegalWordsAreExactlyTheListedOnes :
    (State.reset.faulted = false ∧ State.reset.pc.toNat + 1 < memSize ∧ illegalWord State.reset.wordAtPc = true) ∧
    ({ State.reset with pc := 0xFFE#16 }.faulted = false ∧ { State.reset with pc := 0xFFE#16 }.pc.toNat + 1 < memSize ∧
      illegalWord { State.reset with pc := 0xFFE#16 }.wordAtPc = true) := by decide

theorem witness_StepRunsTheDecodedInstruction :
    (bytesAt { State.reset with pc := 0xFFE#16 } 0xFFE [0x60#8, 0x00#8]).faulted = false ∧
    (bytesAt { State.reset with pc := 0xFFE#16 } 0xFFE [0x60#8, 0x00#8]).pc.toNat + 1 < memSize ∧
    decode [(bytesAt { State.reset with pc := 0xFFE#16 } 0xFFE [0x60#8, 0x00#8]).mem.read 0xFFE,
      (bytesAt { State.reset with pc := 0xFFE#16 } 0xFFE [0x60#8, 0x00#8]).mem.read 0xFFF] =
      .ok (.ldImm 0 0x00#8, []) := by decide

theorem witness_PlacedWordIsTheNextInstruction : State.reset.mem.wf = true ∧
    { faulted with pc := 0xFFF#16 }.mem.wf = true := by decide

theorem witness_FetchPastTheEndIsOutOfBounds :
    ({ State.reset with pc := 0xFFF#16 }.faulted = false ∧ memSize ≤ { State.reset with pc := 0xFFF#16 }.pc.toNat + 1) ∧
    ({ State.reset with pc := 0xFFFF#16 }.faulted = false ∧
      memSize ≤ { State.reset with pc := 0xFFFF#16 }.pc.toNat + 1) := by decide

theorem witness_UnknownOpcodeIsLatchedAndCanBeSkipped : State.reset.faulted = false ∧
    State.reset.pc.toNat + 1 < memSize ∧ decodeWord State.reset.wordAtPc = none := by decide

/-- One witness for each cause, `OutOfBounds` once from the fetch and once from an instruction. -/
theorem witness_FaultEntryIsPrecise :
    (∃ t : State, step State.reset = .next t ∧ t.fault.cause = .unknownOpcode) ∧
    (∃ t : State, step { State.reset with pc := 0xFFF#16 } = .next t ∧ t.fault.cause = .outOfBounds) ∧
    (∃ t : State, step { word 0xF033#16 with i := 0xFFE#16 } = .next t ∧ t.fault.cause = .outOfBounds) ∧
    (∃ t : State, step (full.placeWord 0x2200#16) = .next t ∧ t.fault.cause = .stackOverflow) ∧
    (∃ t : State, step (word 0x00EE#16) = .next t ∧ t.fault.cause = .stackUnderflow) ∧
    State.reset.faulted = false :=
  ⟨⟨_, rfl, rfl⟩, ⟨_, rfl, rfl⟩, ⟨_, rfl, rfl⟩, ⟨_, rfl, rfl⟩, ⟨_, rfl, rfl⟩, rfl⟩

theorem witness_FaultedBlockIsHalted : faulted.faulted = true ∧
    { full with fault := latch .stackOverflow 0x200#16 0x2200#16 0#16 }.faulted = true := by decide

/-- Each raise at the boundary of its condition, and beside it the last operand that does not raise. -/
theorem witness_OnlyTheseInstructionsRaise :
    (∃ t : State, exec (.call 0x200#12) full = .next t ∧ t.fault.cause = .stackOverflow) ∧
    (∃ t : State, exec (.call 0x200#12) { full with sp := 15 } = .next t ∧ t.fault.cause = .none) ∧
    (∃ t : State, exec .ret State.reset = .next t ∧ t.fault.cause = .stackUnderflow) ∧
    (∃ t : State, exec .ret { full with sp := 1 } = .next t ∧ t.fault.cause = .none) ∧
    (∃ t : State, exec (.drw 0 1 5#4) { State.reset with i := 0xFFC#16 } = .next t ∧ t.fault.cause = .outOfBounds) ∧
    (∃ t : State, exec (.drw 0 1 0#4) { State.reset with i := 0xFFFF#16 } = .next t ∧ t.fault.cause = .none) ∧
    (∃ t : State, exec (.ldB 0) { State.reset with i := 0xFFE#16 } = .next t ∧ t.fault.cause = .outOfBounds) ∧
    (∃ t : State, exec (.ldB 0) { State.reset with i := 0xFFD#16 } = .next t ∧ t.fault.cause = .none) ∧
    (∃ t : State, exec (.storeRegs 15) { State.reset with i := 0xFF1#16 } = .next t ∧ t.fault.cause = .outOfBounds) ∧
    (∃ t : State, exec (.storeRegs 15) { State.reset with i := 0xFF0#16 } = .next t ∧ t.fault.cause = .none) ∧
    (∃ t : State, exec (.loadRegs 0) { State.reset with i := 0x1000#16 } = .next t ∧ t.fault.cause = .outOfBounds) ∧
    (∃ t : State, exec (.loadRegs 0) { State.reset with i := 0xFFF#16 } = .next t ∧ t.fault.cause = .none) ∧
    State.reset.faulted = false ∧ full.faulted = false :=
  ⟨⟨_, rfl, rfl⟩, ⟨_, rfl, rfl⟩, ⟨_, rfl, rfl⟩, ⟨_, rfl, rfl⟩, ⟨_, rfl, rfl⟩, ⟨_, rfl, rfl⟩, ⟨_, rfl, rfl⟩, ⟨_, rfl, rfl⟩,
    ⟨_, rfl, rfl⟩, ⟨_, rfl, rfl⟩, ⟨_, rfl, rfl⟩, ⟨_, rfl, rfl⟩, rfl, rfl⟩

/-- A step that reports a display change, one that faults instead, and one of a faulted block. -/
theorem witness_DisplayModifiedExactlyForClsAndDrw : (word 0x00E0#16).faulted = false ∧
    (∃ t : State, step faulted = .next t) ∧
    (∃ t : State, step (word 0x00E0#16) = .next t ∧ (stepReport (word 0x00E0#16) t).displayModified = true) ∧
    (∃ t : State, step { word 0xD015#16 with i := 0xFFC#16 } = .next t ∧
      (stepReport { word 0xD015#16 with i := 0xFFC#16 } t).displayModified = false) :=
  ⟨rfl, ⟨_, rfl⟩, ⟨_, rfl, rfl⟩, ⟨_, rfl, rfl⟩⟩

/-- The reset state, the largest PC, a full stack and a faulted block. -/
theorem witness_EveryStepKeepsTheInvariant : State.reset.Inv ∧ { State.reset with pc := 0x10FE#16 }.Inv ∧ full.Inv ∧
    faulted.Inv ∧ (∃ t : State, step full = .next t) := ⟨by decide, by decide, by decide, by decide, ⟨_, rfl⟩⟩

theorem witness_EveryOperationSequenceKeepsTheInvariant :
    Block.run quirks [.reset, .step, .skip, .tick] .neverReset =
      .next (.live { State.reset with cfg := quirks, pc := 0x202#16 }) ∧
    Block.run quirks [] .neverReset = .next .neverReset := ⟨rfl, rfl⟩

theorem witness_InstructionsWriteOnlyTheirParts : ∃ t : State, exec (.storeRegs 1) State.reset = .next t := ⟨_, rfl⟩

/-- A flag writer, and an instruction that writes Vx with x = F. -/
theorem witness_OnlyListedInstructionsWriteVF :
    (∃ t : State, exec (.addReg 1 2) (vs State.reset [(1, 0xFF#8), (2, 0x01#8)]) = .next t ∧ t.reg VF ≠ 0#8) ∧
    (∃ t : State, exec (.ldImm 15 0x07#8) State.reset = .next t ∧ t.reg VF ≠ State.reset.reg VF) :=
  ⟨⟨_, rfl, by decide⟩, ⟨_, rfl, by decide⟩⟩

theorem witness_SelfJumpStepChangesNothing : (word 0x1200#16).selfJump = true ∧
    (({ State.reset with pc := 0xFFE#16 }).placeWord 0x1FFE#16).selfJump = true := by decide

/-- A faulting fetch and a `CALL` meet both clauses. -/
theorem witness_TicksAndKeyChangesCommuteWithOtherSteps :
    ((∀ x, State.reset.fetch ≠ .run (.ldVxDt x) ∧ State.reset.fetch ≠ .run (.ldDtVx x) ∧
      State.reset.fetch ≠ .run (.ldStVx x)) ∧ ∃ t : State, step State.reset = .next t) ∧
    ((∀ x, (word 0x2200#16).fetch ≠ .run (.skp x) ∧ (word 0x2200#16).fetch ≠ .run (.sknp x) ∧
      (word 0x2200#16).fetch ≠ .run (.ldVxK x)) ∧ ∃ t : State, step (word 0x2200#16) = .next t) :=
  ⟨⟨by decide, ⟨_, rfl⟩⟩, ⟨by decide, ⟨_, rfl⟩⟩⟩

/-- The first and the last cell, and a memory with an entry. -/
theorem witness_MemoryReadsTheLastWrite : Memory.wf [] = true ∧ (0 : Nat) < memSize ∧ (4095 : Nat) < memSize ∧
    Memory.wf [(0x300, 0x12#8)] = true ∧ (∀ a : Nat, Memory.read [] a = Memory.read [] a) :=
  ⟨rfl, by decide, by decide, by decide, fun _ => rfl⟩

/-- The last PC that leaves room for the stored word. -/
theorem witness_StoreIsSeenByTheNextFetch :
    State.reset.mem.wf = true ∧ State.reset.faulted = false ∧ (0xFFE#16 : Word) = 0xFFC#16 + 2#16 ∧
    (0xFFC#16 : Word).toNat + 3 < memSize ∧
    decodeWord (wordOfBytes ((vs State.reset [(0, 0x12#8), (1, 0x08#8)]).reg 0)
      ((vs State.reset [(0, 0x12#8), (1, 0x08#8)]).reg 1)) = some (.jp 0x208#12) := by decide

/-- With and without the quirk, the source VF and not VF. -/
theorem witness_ShiftRightFlagsThenShifts :
    ((15 : Reg) = if quirks.quirkShiftUsesVy then (15 : Reg) else 1) ∧
    ((1 : Reg) = if Config.default.quirkShiftUsesVy then (15 : Reg) else 1) := by decide

theorem witness_ShiftLeftFlagsThenShifts :
    ((15 : Reg) = if quirks.quirkShiftUsesVy then (15 : Reg) else 1) ∧
    ((15 : Reg) = if Config.default.quirkShiftUsesVy then (1 : Reg) else 15) := by decide

/-- The deepest and the shallowest stack that pops, and the empty one. -/
theorem witness_ReturnPopsOrUnderflows : full.sp.val = (15 : Fin 16).val + 1 ∧
    { full with sp := 1 }.sp.val = (0 : Fin 16).val + 1 ∧ State.reset.sp.val = 0 := by decide

theorem witness_CallPushesOrOverflows : { full with sp := 15 }.sp.val < 16 ∧ State.reset.sp.val < 16 ∧
    full.sp.val = 16 := by decide

theorem witness_CallThenReturnComesBack : { full with sp := 15 }.sp.val < 16 := by decide

theorem witness_ClearTurnsEveryPixelOff : (word 0x00E0#16).fetch = .run .cls ∧
    (∃ t : State, step (word 0x00E0#16) = .next t) := ⟨by decide, ⟨_, rfl⟩⟩

/-- The last I for five rows, no rows at any I, the first I past the end, and a draw by `step`. -/
theorem witness_DrawInvertsCoveredPixelsAndFlagsCollision :
    ((5#4 : Nibble) = 0#4 ∨ { State.reset with i := 0xFFB#16 }.i.toNat + (5#4 : Nibble).toNat - 1 < memSize) ∧
    ((0#4 : Nibble) = 0#4 ∨ { State.reset with i := 0xFFFF#16 }.i.toNat + (0#4 : Nibble).toNat - 1 < memSize) ∧
    ((5#4 : Nibble) ≠ 0#4 ∧ memSize ≤ { State.reset with i := 0xFFC#16 }.i.toNat + (5#4 : Nibble).toNat - 1) ∧
    ((word 0xD010#16).fetch = .run (.drw 0 1 0#4) ∧
      ∃ t : State, step (word 0xD010#16) = .next t ∧ t.faulted = false) :=
  ⟨by decide, by decide, by decide, by decide, ⟨_, rfl, rfl⟩⟩

/-- Glyph 0 on a cleared framebuffer (vectors D1 and D2): it has a 1 bit. -/
theorem witness_DrawingTwiceRestoresTheFramebuffer : (0 : Reg) ≠ VF ∧ (1 : Reg) ≠ VF ∧
    State.reset.i.toNat + (5#4 : Nibble).toNat - 1 < memSize ∧
    (∀ px py : Nat, px < 64 → py < 32 → State.reset.fb.pixel px py = false) ∧
    ∃ r : Nat, r < (5#4 : Nibble).toNat ∧ State.reset.mem.read (State.reset.i.toNat + r) ≠ 0#8 := by
  refine ⟨by decide, by decide, by decide, fun px py _ _ => ?_, 0, by decide, by decide⟩
  simp [Framebuffer.pixel, State.reset]

/-- No key, one key, several keys, and the other choice of `KEY_PICK`. -/
theorem witness_KeyWaitEndsWithAPressedKey : (∀ k : Key, State.reset.keys.getLsbD k.val = false) ∧
    { State.reset with keys := 0x8000#16 }.keys.getLsbD (15 : Key).val = true ∧
    { State.reset with keys := 0x1208#16 }.keys.getLsbD (12 : Key).val = true ∧
    { State.reset with keys := 0x1208#16 }.cfg.keyPick = .lowest := by decide

theorem witness_BcdStoreWritesThreeDigits :
    (State.reset.mem.wf = true ∧ { State.reset with i := 0xFFD#16 }.i.toNat + 2 < memSize) ∧
    memSize ≤ { State.reset with i := 0xFFE#16 }.i.toNat + 2 ∧
    memSize ≤ { State.reset with i := 0xFFFF#16 }.i.toNat + 2 := by decide

theorem witness_ArrayStoreWritesTheRange :
    (State.reset.mem.wf = true ∧ { State.reset with i := 0xFF0#16 }.i.toNat + (15 : Reg).val < memSize) ∧
    memSize ≤ { State.reset with i := 0xFF1#16 }.i.toNat + (15 : Reg).val ∧
    memSize ≤ { State.reset with i := 0x1000#16 }.i.toNat + (0 : Reg).val := by decide

theorem witness_ArrayLoadReadsTheRange :
    { State.reset with i := 0xFF0#16 }.i.toNat + (15 : Reg).val < memSize ∧
    { State.reset with i := 0xFFF#16 }.i.toNat + (0 : Reg).val < memSize ∧
    memSize ≤ { State.reset with i := 0xFF1#16 }.i.toNat + (15 : Reg).val := by decide

theorem witness_ArrayLoadUndoesArrayStore : State.reset.mem.wf = true ∧
    { State.reset with i := 0xFF0#16 }.i.toNat + (15 : Reg).val < memSize := by decide

/-- The longest ROM that fits, the empty one, and the shortest that does not fit (source T7). -/
theorem witness_LoadPlacesTheRomOrChangesNothing : (List.replicate 3584 0xAA#8).length ≤ 3584 ∧
    ([] : List Byte).length ≤ 3584 ∧ 3584 < (List.replicate 3585 0xAA#8).length := by
  simp only [List.length_replicate, List.length_nil]; omega

theorem witness_NeverResetBlockRefuses : HostOp.step ≠ .reset ∧ ∀ rom, HostOp.step ≠ .load rom :=
  ⟨by decide, fun _ h => nomatch h⟩

theorem witness_FaultIsLeftOnlyBySkipResetOrLoad : faulted.fault.cause = .unknownOpcode ∧
    State.reset.fault.cause ≠ .unknownOpcode ∧
    ({ full with fault := latch .stackOverflow 0x200#16 0x2200#16 0#16 }.faulted = true ∧
      { full with fault := latch .stackOverflow 0x200#16 0x2200#16 0#16 }.fault.cause ≠ .unknownOpcode ∧
      HostOp.skip ≠ .reset ∧ ∀ rom : List Byte, HostOp.skip = .load rom → 3584 < rom.length) ∧
    ([] : List Byte).length ≤ 3584 :=
  ⟨by decide, by decide, ⟨by decide, by decide, by decide, fun _ h => nomatch h⟩, by decide⟩

/-- A step, an operation that is no step, and a `load` that fits, from states that meet the invariant. -/
theorem witness_EveryOperationKeepsTheInvariant : State.reset.Inv ∧ full.Inv ∧ faulted.Inv ∧
    (∃ (b : Block) (r : HostReply), State.reset.apply .step = .next (b, r)) ∧
    (∃ (b : Block) (r : HostReply), faulted.apply .skip = .next (b, r)) ∧
    (∃ (b : Block) (r : HostReply), full.apply (.load [0x12#8, 0x00#8]) = .next (b, r)) :=
  ⟨by decide, by decide, by decide, ⟨_, _, rfl⟩, ⟨_, _, rfl⟩, ⟨_, _, rfl⟩⟩

end Sys2Proof.Tests
end

section
/-! SUPPORT. What the instructions with more than one outcome can do, one inversion lemma each: the six that can raise
(spec/60_exceptions.md R201 to R203) and the key wait (spec/45_input.md R162); before them, what these raise. -/

namespace Sys2Proof.Machine

variable {s t : State}

theorem State.faulted_eq_false : s.faulted = false ↔ s.fault.cause = .none := by
  simp [State.faulted]

/-- What the bounds check raises is recorded with an address out of range (R201). -/
theorem memSize_le_addr_of_checkRange {a : Word} {n : Nat} {f : Fault} (h : checkRange a n = some f) :
    memSize ≤ f.addr.toNat := by
  obtain ⟨-, -, rfl⟩ := checkRange_eq_some.1 h
  exact memSize_le_addr a

theorem length_bcdDigits (b : Byte) : (bcdDigits b).length = 3 := rfl

/-- `RET` underflows on an empty stack, else it pops (R131, R203). -/
theorem exec_ret_cases (h : exec .ret s = .next t) :
    (s.sp.val = 0 ∧ t = s.takeFault (encode .ret) .stackUnderflow) ∨ ∃ hsp : 0 < s.sp.val, t = s.popPc hsp := by
  simp only [exec, execRet] at h
  split at h
  case isTrue hsp => cases h; exact .inr ⟨hsp, rfl⟩
  case isFalse hsp => cases h; exact .inl ⟨by omega, rfl⟩

/-- `CALL` overflows on a full stack, else it pushes the return address and jumps (R133, R202). -/
theorem exec_call_cases {nnn : Addr12} (h : exec (.call nnn) s = .next t) :
    (s.sp.val = 16 ∧ t = s.takeFault (encode (.call nnn)) .stackOverflow) ∨
    ∃ hsp : s.sp.val < 16, t = (s.push (s.pc + 2#16) hsp).setPc (zext16 nnn) := by
  simp only [exec, execCall] at h
  split at h
  case isTrue hsp => cases h; exact .inr ⟨hsp, rfl⟩
  case isFalse hsp => cases h; exact .inl ⟨by omega, rfl⟩

/-- `DRW` raises what its range check raises, else it draws and writes the flag (R152). -/
theorem exec_drw_cases {x y : Reg} {n : Nibble} (h : exec (.drw x y n) s = .next t) :
    (∃ f, checkRange s.i n.toNat = some f ∧ t = s.takeFault (encode (.drw x y n)) f) ∨
    (checkRange s.i n.toNat = none ∧
      t = ((s.setFb (s.drawing x y n).fb).setFlag (s.drawing x y n).collision).advance) := by
  simp only [exec, execDrw] at h
  split at h
  case h_1 f hc => cases h; exact .inl ⟨f, hc, rfl⟩
  case h_2 hc => cases h; exact .inr ⟨hc, rfl⟩

/-- `LD B,Vx` raises what its range check raises, else it stores the three digits (R165). -/
theorem exec_ldB_cases {x : Reg} (h : exec (.ldB x) s = .next t) :
    (∃ f, checkRange s.i 3 = some f ∧ t = s.takeFault (encode (.ldB x)) f) ∨
    (checkRange s.i 3 = none ∧ t = (s.setMem (s.mem.writeBytes s.addrI (bcdDigits (s.reg x)))).advance) := by
  simp only [exec, execLdB] at h
  split at h
  case h_1 f hc => cases h; exact .inl ⟨f, hc, rfl⟩
  case h_2 hc => cases h; exact .inr ⟨hc, rfl⟩

/-- `LD [I],Vx` raises what its range check raises, else it stores V0 to Vx (R166). -/
theorem exec_storeRegs_cases {x : Reg} (h : exec (.storeRegs x) s = .next t) :
    (∃ f, checkRange s.i (x.val + 1) = some f ∧ t = s.takeFault (encode (.storeRegs x)) f) ∨
    (checkRange s.i (x.val + 1) = none ∧
      t = ((s.setMem (s.mem.writeBytes s.addrI (s.regsTo x))).stepI x).advance) := by
  simp only [exec, execStoreRegs] at h
  split at h
  case h_1 f hc => cases h; exact .inl ⟨f, hc, rfl⟩
  case h_2 hc => cases h; exact .inr ⟨hc, rfl⟩

/-- `LD Vx,[I]` raises what its range check raises, else it loads V0 to Vx (R167). -/
theorem exec_loadRegs_cases {x : Reg} (h : exec (.loadRegs x) s = .next t) :
    (∃ f, checkRange s.i (x.val + 1) = some f ∧ t = s.takeFault (encode (.loadRegs x)) f) ∨
    (checkRange s.i (x.val + 1) = none ∧
      t = ((s.setRegs (s.mem.readBytes s.addrI (x.val + 1))).stepI x).advance) := by
  simp only [exec, execLoadRegs] at h
  split at h
  case h_1 f hc => cases h; exact .inl ⟨f, hc, rfl⟩
  case h_2 hc => cases h; exact .inr ⟨hc, rfl⟩

/-- `LD Vx,K` changes nothing while no key is pressed, else it reports the picked key (R162). -/
theorem exec_ldVxK_cases {x : Reg} (h : exec (.ldVxK x) s = .next t) :
    (pickKey s.cfg s.keys = none ∧ t = s) ∨
    ∃ k, pickKey s.cfg s.keys = some k ∧ t = (s.setReg x (BitVec.ofNat 8 k.val)).advance := by
  simp only [exec, execLdVxK] at h
  split at h
  case h_1 hk => cases h; exact .inl ⟨hk, rfl⟩
  case h_2 k hk => cases h; exact .inr ⟨k, hk, rfl⟩

end Sys2Proof.Machine
end

section
/-! The frame of every instruction, and of VF alone (spec/10_state.md R21 to R29). -/

namespace Sys2Proof.Machine

variable {s t : State}

/-- An instruction changes only the parts listed for it, whether it completes or raises. -/
theorem exec_frame {i : Instr} (h : exec i s = .next t) : changesOnly (mayWrite i) s t := by
  cases i
  case ret => obtain ⟨-, rfl⟩ | ⟨_, rfl⟩ := exec_ret_cases h <;> simp [changesOnly, mayWrite]
  case call => obtain ⟨-, rfl⟩ | ⟨_, rfl⟩ := exec_call_cases h <;> simp [changesOnly, mayWrite]
  case drw => obtain ⟨_, -, rfl⟩ | ⟨-, rfl⟩ := exec_drw_cases h <;> simp [changesOnly, mayWrite]
  case ldB => obtain ⟨_, -, rfl⟩ | ⟨-, rfl⟩ := exec_ldB_cases h <;> simp [changesOnly, mayWrite]
  case storeRegs => obtain ⟨_, -, rfl⟩ | ⟨-, rfl⟩ := exec_storeRegs_cases h <;> simp [changesOnly, mayWrite]
  case loadRegs => obtain ⟨_, -, rfl⟩ | ⟨-, rfl⟩ := exec_loadRegs_cases h <;> simp [changesOnly, mayWrite]
  case ldVxK => obtain ⟨-, rfl⟩ | ⟨_, -, rfl⟩ := exec_ldVxK_cases h <;> simp [changesOnly, mayWrite]
  case or | and | xor => cases h; simp [changesOnly, mayWrite, State.logic]
  case addReg | sub | subn => cases h; simp [changesOnly, mayWrite, State.setWithFlag]
  case shr | shl => cases h; simp [changesOnly, mayWrite, State.shift]
  case rnd => cases h; simp [changesOnly, mayWrite, State.draw]
  case jp | jpV0 | seImm | sneImm | seReg | sneReg | skp | sknp | cls | ldI | addI | ldF | ldImm | addImm | ldReg |
      ldVxDt | ldDtVx | ldStVx =>
    cases h; simp [changesOnly, mayWrite]

/-- Settles O19: the frame of all 34 instructions. -/
theorem instructionsWriteOnlyTheirParts : Obligations.InstructionsWriteOnlyTheirParts := fun _ _ _ h => exec_frame h

/-- The configuration is constant (R6). -/
theorem exec_cfg {i : Instr} (h : exec i s = .next t) : t.cfg = s.cfg := by
  obtain ⟨-, -, -, -, -, -, -, -, -, -, -, -, hcfg⟩ := exec_frame h
  exact hcfg

/-- An instruction that does not write the register file keeps every register. -/
theorem exec_reg {i : Instr} (h : exec i s = .next t) (hi : .regs ∉ mayWrite i) (r : Reg) : t.reg r = s.reg r := by
  obtain ⟨hregs, -⟩ := exec_frame h
  exact State.reg_congr (hregs.resolve_left hi) r

/-- An instruction that is neither `CALL` nor `RET` keeps the stack. -/
theorem exec_stack {i : Instr} (h : exec i s = .next t) (hsp : .sp ∉ mayWrite i) (hst : .stack ∉ mayWrite i) :
    t.sp = s.sp ∧ t.stack = s.stack := by
  obtain ⟨-, -, -, hsp', hst', -⟩ := exec_frame h
  exact ⟨hsp'.resolve_left hsp, hst'.resolve_left hst⟩

/-- An instruction that cannot raise keeps the latch. -/
theorem exec_latch {i : Instr} (h : exec i s = .next t) (hi : .fault ∉ mayWrite i) : t.fault = s.fault := by
  obtain ⟨-, -, -, -, -, -, -, -, -, -, hfault, -⟩ := exec_frame h
  exact hfault.resolve_left hi

/-- `LD Vx,[I]` loads no register above Vx (R167). -/
theorem reg_setRegs_readBytes_of_lt (s : State) (m : Memory) (a : Nat) {x r : Reg} (h : x < r) :
    (s.setRegs (m.readBytes a (x.val + 1))).reg r = s.reg r := by
  rw [State.reg_setRegs, Memory.length_readBytes, if_neg (by rw [Fin.lt_def] at h; omega)]

/-- A write to another register keeps VF (R22). -/
theorem reg_VF_setReg (s : State) {x : Reg} (hx : x ≠ VF) (b : Byte) : (s.setReg x b).reg VF = s.reg VF := by
  rw [State.reg_setReg, if_neg hx.symm]

/-- A logic instruction without the quirk, on another register, keeps VF (R114 to R116). -/
theorem reg_VF_logic (s : State) {x : Reg} (hq : s.cfg.quirkLogicClearsVf = false) (hx : x ≠ VF)
    (f : Byte → Byte → Byte) (y : Reg) : (s.logic f x y).reg VF = s.reg VF := by
  rw [State.logic, State.reg_logicFlag, if_neg (by simp [hq]), reg_VF_setReg s hx]

/-- An instruction that is no flag writer and does not name F as its Vx keeps VF (R22). -/
theorem exec_keeps_VF {i : Instr} (h : exec i s = .next t) (hw : mayWriteVF s.cfg i = false) :
    t.reg VF = s.reg VF := by
  cases i
  case ldImm x _ | addImm x _ | ldReg x _ | ldVxDt x | rnd x _ =>
    cases h
    exact reg_VF_setReg _ (of_decide_eq_false hw) _
  case or x y | and x y | xor x y =>
    cases h
    obtain ⟨hq, hx⟩ := Bool.or_eq_false_iff.1 hw
    exact reg_VF_logic s hq (of_decide_eq_false hx) _ y
  case ldVxK x =>
    obtain ⟨-, rfl⟩ | ⟨k, -, rfl⟩ := exec_ldVxK_cases h
    · rfl
    · exact reg_VF_setReg s (of_decide_eq_false hw) _
  case loadRegs x =>
    have hx : x < VF := Fin.lt_last_iff_ne_last.2 (of_decide_eq_false hw)
    obtain ⟨_, -, rfl⟩ | ⟨-, rfl⟩ := exec_loadRegs_cases h
    · rfl
    · exact (State.reg_stepI _ x VF).trans (reg_setRegs_readBytes_of_lt s s.mem s.addrI hx)
  case addReg | sub | subn | shr | shl | drw => cases hw
  case cls | ret | jp | call | seImm | sneImm | seReg | sneReg | skp | sknp | ldI | jpV0 | ldDtVx | ldStVx | addI |
      ldF | ldB | storeRegs =>
    exact exec_reg h (by simp [mayWrite]) VF

/-- Settles O20: the contrapositive of `exec_keeps_VF`. -/
theorem onlyListedInstructionsWriteVF : Obligations.OnlyListedInstructionsWriteVF := fun _ _ _ h hne =>
  (Bool.eq_false_or_eq_true _).resolve_right fun hw => hne (exec_keeps_VF h hw)

end Sys2Proof.Machine
end

section
/-! The invariant of every reachable state (spec/10_state.md R38): what an instruction can make of PC, the stack, memory
and the latch, and then every step and every operation of the host. -/

namespace Sys2Proof.Machine

variable {s t : State}

/-- Where PC goes: it stays (a raise, the key wait), it passes one instruction or two, it takes a stack entry in use
(`RET`), or an immediate address plus a byte (`JP V0`, and `JP`, `CALL` with the byte 0). -/
theorem exec_pc {i : Instr} (h : exec i s = .next t) :
    t.pc = s.pc ∨ t.pc = s.pc + 2#16 ∨ t.pc = s.pc + 4#16 ∨
    (∃ k : Fin 16, k.val < s.sp.val ∧ t.pc = s.stack[k]) ∨
    ∃ (nnn : Addr12) (b : Byte), t.pc = zext16 nnn + zextByte b := by
  have hjump (nnn : Addr12) : zext16 nnn = zext16 nnn + zextByte 0#8 := (BitVec.add_zero _).symm
  have hskip (c : Bool) : (s.skipIf c).pc = s.pc + 2#16 ∨ (s.skipIf c).pc = s.pc + 4#16 := by
    cases c
    · exact .inl rfl
    · exact .inr rfl
  cases i
  case ret =>
    obtain ⟨-, rfl⟩ | ⟨hsp, rfl⟩ := exec_ret_cases h
    · exact .inl rfl
    · exact .inr (.inr (.inr (.inl ⟨⟨s.sp.val - 1, by omega⟩, Nat.sub_one_lt_of_lt hsp, rfl⟩)))
  case call nnn =>
    obtain ⟨-, rfl⟩ | ⟨_, rfl⟩ := exec_call_cases h
    · exact .inl rfl
    · exact .inr (.inr (.inr (.inr ⟨nnn, 0#8, hjump nnn⟩)))
  case jp nnn => cases h; exact .inr (.inr (.inr (.inr ⟨nnn, 0#8, hjump nnn⟩)))
  case jpV0 nnn => cases h; exact .inr (.inr (.inr (.inr ⟨nnn, s.reg 0, rfl⟩)))
  case seImm | sneImm | seReg | sneReg | skp | sknp =>
    cases h
    exact .inr ((hskip _).imp_right .inl)
  case drw => obtain ⟨_, -, rfl⟩ | ⟨-, rfl⟩ := exec_drw_cases h <;> simp
  case ldB => obtain ⟨_, -, rfl⟩ | ⟨-, rfl⟩ := exec_ldB_cases h <;> simp
  case storeRegs => obtain ⟨_, -, rfl⟩ | ⟨-, rfl⟩ := exec_storeRegs_cases h <;> simp
  case loadRegs => obtain ⟨_, -, rfl⟩ | ⟨-, rfl⟩ := exec_loadRegs_cases h <;> simp
  case ldVxK => obtain ⟨-, rfl⟩ | ⟨_, -, rfl⟩ := exec_ldVxK_cases h <;> simp
  case or | and | xor => cases h; simp [State.logic]
  case cls | ldImm | addImm | ldReg | addReg | sub | shr | subn | shl | ldI | rnd | ldVxDt | ldDtVx | ldStVx | addI |
      ldF =>
    cases h
    exact .inr (.inl rfl)

/-- What becomes of memory: it is kept, or bytes inside the array are stored from I on. -/
theorem exec_mem {i : Instr} (h : exec i s = .next t) :
    t.mem = s.mem ∨
    ∃ bs : List Byte, s.addrI + bs.length ≤ memSize ∧ t.mem = s.mem.writeBytes s.addrI bs := by
  cases i
  case ldB x =>
    obtain ⟨_, -, rfl⟩ | ⟨hc, rfl⟩ := exec_ldB_cases h
    · exact .inl rfl
    · have hr := checkRange_eq_none.1 hc
      exact .inr ⟨bcdDigits (s.reg x), by rw [length_bcdDigits, State.addrI]; omega, rfl⟩
  case storeRegs x =>
    obtain ⟨_, -, rfl⟩ | ⟨hc, rfl⟩ := exec_storeRegs_cases h
    · exact .inl rfl
    · have hr := checkRange_eq_none.1 hc
      exact .inr ⟨s.regsTo x, by rw [State.length_regsTo, State.addrI]; omega, State.stepI_mem _ x⟩
  case ret => obtain ⟨-, rfl⟩ | ⟨_, rfl⟩ := exec_ret_cases h <;> exact .inl rfl
  case call => obtain ⟨-, rfl⟩ | ⟨_, rfl⟩ := exec_call_cases h <;> exact .inl rfl
  case drw => obtain ⟨_, -, rfl⟩ | ⟨-, rfl⟩ := exec_drw_cases h <;> exact .inl rfl
  case loadRegs => obtain ⟨_, -, rfl⟩ | ⟨-, rfl⟩ := exec_loadRegs_cases h <;> simp
  case ldVxK => obtain ⟨-, rfl⟩ | ⟨_, -, rfl⟩ := exec_ldVxK_cases h <;> exact .inl rfl
  case or | and | xor => cases h; exact .inl (State.logicFlag_mem _)
  case cls | jp | jpV0 | seImm | sneImm | seReg | sneReg | skp | sknp | ldImm | addImm | ldReg | addReg | sub | shr |
      subn | shl | ldI | rnd | ldVxDt | ldDtVx | ldStVx | addI | ldF =>
    cases h
    exact .inl rfl

/-- What becomes of the stack: it is kept, `CALL` pushes the next instruction's address, or `RET` frees an entry. -/
theorem exec_stack_cases {i : Instr} (h : exec i s = .next t) :
    (t.sp = s.sp ∧ t.stack = s.stack) ∨
    (∃ hsp : s.sp.val < 16, t.sp.val = s.sp.val + 1 ∧ t.stack = s.stack.set s.sp.val (s.pc + 2#16)) ∨
    (t.sp.val = s.sp.val - 1 ∧ t.stack = s.stack) := by
  cases i
  case ret =>
    obtain ⟨-, rfl⟩ | ⟨_, rfl⟩ := exec_ret_cases h
    · exact .inl ⟨rfl, rfl⟩
    · exact .inr (.inr ⟨rfl, rfl⟩)
  case call =>
    obtain ⟨-, rfl⟩ | ⟨hsp, rfl⟩ := exec_call_cases h
    · exact .inl ⟨rfl, rfl⟩
    · exact .inr (.inl ⟨hsp, rfl, rfl⟩)
  all_goals exact .inl (exec_stack h (by simp [mayWrite]) (by simp [mayWrite]))

/-- What becomes of the latch: it is kept, or the instruction does nothing but raise, `OutOfBounds` with an address out
of range (R201 to R203, R208). -/
theorem exec_latch_cases {i : Instr} (h : exec i s = .next t) :
    t.fault = s.fault ∨
    ∃ f, t = s.takeFault (encode i) f ∧ (f.cause = .outOfBounds → memSize ≤ f.addr.toNat) := by
  cases i
  case ret =>
    obtain ⟨-, rfl⟩ | ⟨_, rfl⟩ := exec_ret_cases h
    · exact .inr ⟨_, rfl, nofun⟩
    · exact .inl rfl
  case call =>
    obtain ⟨-, rfl⟩ | ⟨_, rfl⟩ := exec_call_cases h
    · exact .inr ⟨_, rfl, nofun⟩
    · exact .inl rfl
  case drw =>
    obtain ⟨f, hc, rfl⟩ | ⟨-, rfl⟩ := exec_drw_cases h
    · exact .inr ⟨f, rfl, fun _ => memSize_le_addr_of_checkRange hc⟩
    · exact .inl rfl
  case ldB =>
    obtain ⟨f, hc, rfl⟩ | ⟨-, rfl⟩ := exec_ldB_cases h
    · exact .inr ⟨f, rfl, fun _ => memSize_le_addr_of_checkRange hc⟩
    · exact .inl rfl
  case storeRegs x =>
    obtain ⟨f, hc, rfl⟩ | ⟨-, rfl⟩ := exec_storeRegs_cases h
    · exact .inr ⟨f, rfl, fun _ => memSize_le_addr_of_checkRange hc⟩
    · exact .inl (State.stepI_fault _ x)
  case loadRegs x =>
    obtain ⟨f, hc, rfl⟩ | ⟨-, rfl⟩ := exec_loadRegs_cases h
    · exact .inr ⟨f, rfl, fun _ => memSize_le_addr_of_checkRange hc⟩
    · exact .inl (State.stepI_fault _ x)
  all_goals exact .inl (exec_latch h (by simp [mayWrite]))

/-! ### The parts of the invariant, kept by an instruction -/

theorem exec_keeps_wf {i : Instr} (h : exec i s = .next t) (hwf : s.mem.wf = true) : t.mem.wf = true := by
  obtain hm | ⟨bs, hlen, hm⟩ := exec_mem h
  · rwa [hm]
  · rw [hm]
    exact Memory.wf_writeBytes hlen hwf

/-- The largest jump target is that of `JP V0` with nnn = 0xFFF and V0 = 0xFF (R24, R138). -/
theorem toNat_jump_le (nnn : Addr12) (b : Byte) : (zext16 nnn + zextByte b).toNat ≤ 0x10FE := by
  have hn := nnn.isLt
  have hb := b.isLt
  simp only [zext16, zextByte, BitVec.toNat_add, BitVec.toNat_setWidth]
  omega

/-- Past a fetched instruction, or past two, PC does not wrap. -/
theorem toNat_add_of_fetched {pc : Word} {n : Nat} (hpc : pc.toNat + 1 < memSize) (hn : n ≤ 4) :
    (pc + BitVec.ofNat 16 n).toNat = pc.toNat + n := by
  rw [BitVec.toNat_add, BitVec.toNat_ofNat]
  unfold memSize at hpc
  omega

theorem exec_pc_le {i : Instr} (h : exec i s = .next t) (hpc : s.pc.toNat + 1 < memSize)
    (hstack : ∀ k : Fin 16, k.val < s.sp.val → s.stack[k].toNat ≤ memSize) : t.pc.toNat ≤ 0x10FE := by
  unfold memSize at hpc
  obtain hp | hp | hp | ⟨k, hk, hp⟩ | ⟨nnn, b, hp⟩ := exec_pc h <;> rw [hp]
  · omega
  · rw [toNat_add_of_fetched hpc (by decide)]; omega
  · rw [toNat_add_of_fetched hpc (by decide)]; omega
  · exact (hstack k hk).trans (by decide)
  · exact toNat_jump_le nnn b

theorem exec_stack_le {i : Instr} (h : exec i s = .next t) (hpc : s.pc.toNat + 1 < memSize)
    (hstack : ∀ k : Fin 16, k.val < s.sp.val → s.stack[k].toNat ≤ memSize) :
    ∀ k : Fin 16, k.val < t.sp.val → t.stack[k].toNat ≤ memSize := by
  intro k hk
  obtain ⟨hsp, hst⟩ | ⟨_, hsp, hst⟩ | ⟨hsp, hst⟩ := exec_stack_cases h
  · rw [hst]
    exact hstack k (by rwa [← hsp])
  · rw [hst, Fin.getElem_fin, Vector.getElem_set]
    split
    · rw [toNat_add_of_fetched hpc (by decide)]
      omega
    · exact hstack k (by omega)
  · rw [hst]
    exact hstack k (by omega)

/-! ### The invariant, kept by a step -/

/-- Fault entry keeps the invariant: an address out of range for `OutOfBounds`, a fetched word for `UnknownOpcode`. -/
theorem State.Inv.takeFault (hs : s.Inv) (op : Word) {f : Fault}
    (haddr : f.cause = .outOfBounds → memSize ≤ f.addr.toNat)
    (hword : f.cause = .unknownOpcode → s.pc.toNat + 1 < memSize) : (s.takeFault op f).Inv := by
  obtain ⟨hwf, hpc, hstack, -⟩ := hs
  have hcause : f.cause ≠ .none := by cases f <;> exact nofun
  exact ⟨hwf, hpc, hstack, fun hn => absurd hn hcause, fun _ => rfl, haddr, hword⟩

/-- An instruction run where it was fetched, by a block not faulted, keeps the invariant. -/
theorem State.Inv.exec {i : Instr} (hs : s.Inv) (hf : s.faulted = false) (hfetch : s.pc.toNat + 1 < memSize)
    (h : exec i s = .next t) : t.Inv := by
  obtain hkept | ⟨f, rfl, haddr⟩ := exec_latch_cases h
  · obtain ⟨hwf, -, hstack, hclear, -⟩ := hs
    have hnone : t.fault.cause = .none := by rw [hkept, ← State.faulted_eq_false, hf]
    have hno {c : FaultCause} {P : Prop} (hc : c ≠ .none) (he : t.fault.cause = c) : P :=
      absurd (he.symm.trans hnone) hc
    exact ⟨exec_keeps_wf h hwf, exec_pc_le h hfetch hstack, exec_stack_le h hfetch hstack,
      fun _ => hkept.trans (hclear (hkept ▸ hnone)), fun hc => absurd hnone hc, hno nofun, hno nofun⟩
  · exact hs.takeFault _ haddr fun _ => hfetch

theorem State.Inv.step (hs : s.Inv) (h : step s = .next t) : t.Inv := by
  unfold Machine.step at h
  split at h
  case h_1 => cases h; exact hs
  case h_2 op f hfetch =>
    cases h
    obtain ⟨-, ⟨-, -, rfl⟩ | ⟨hpc, -, -, rfl⟩⟩ := State.fetch_eq_raised.1 hfetch
    · exact hs.takeFault op (fun _ => memSize_le_addr s.pc) nofun
    · exact hs.takeFault op nofun fun _ => hpc
  case h_3 i hfetch =>
    obtain ⟨hf, hpc, -⟩ := State.fetch_eq_run.1 hfetch
    exact hs.exec hf hpc h

/-- Settles O16: by the stages of a step, `takeFault` where one raises and `exec` where an instruction runs. -/
theorem everyStepKeepsTheInvariant : Obligations.EveryStepKeepsTheInvariant := fun _ _ => State.Inv.step

/-! ### The invariant, kept by every operation of the host -/

/-- Settles O15: memory is at its reset contents, no stack entry is in use and the latch is clear. -/
theorem resetMeetsTheInvariant : Obligations.ResetMeetsTheInvariant :=
  ⟨rfl, by decide, fun _ hk => absurd hk (Nat.not_lt_zero _), fun _ => rfl, fun hc => absurd rfl hc, nofun, nofun⟩

/-- The operation `reset` keeps the configuration and the draw counter, which the invariant does not name (R240). -/
theorem State.Inv.resetOp (s : State) : s.resetOp.Inv := resetMeetsTheInvariant

/-- A ROM of at most 3584 bytes from 0x200 ends at the end of memory (R241). -/
theorem State.Inv.loadRom (s : State) {rom : List Byte} (hfits : romFits rom = true) : (s.loadRom rom).Inv := by
  obtain ⟨hwf, hrest⟩ := State.Inv.resetOp s
  have hlen : rom.length ≤ romMax := of_decide_eq_true hfits
  exact ⟨Memory.wf_writeBytes (Nat.add_le_add_left hlen progBase) hwf, hrest⟩

/-- `skip` passes an illegal word that was fetched, so PC stays at most 4096 (R210). -/
theorem State.Inv.skip (hs : s.Inv) : s.skip.Inv := by
  unfold State.skip
  split
  case isTrue haccepted =>
    obtain ⟨hwf, -, hstack, -, -, -, hword⟩ := hs
    have hpc := hword (of_decide_eq_true haccepted)
    refine ⟨hwf, ?_, hstack, fun _ => rfl, fun hc => absurd rfl hc, nofun, nofun⟩
    rw [State.leaveUnknownOpcode_pc, toNat_add_of_fetched hpc (by decide)]
    unfold memSize at hpc
    omega
  case isFalse => exact hs

theorem State.cfg_skip (s : State) : s.skip.cfg = s.cfg := by
  unfold State.skip
  split <;> rfl

theorem step_cfg (h : step s = .next t) : t.cfg = s.cfg := by
  unfold step at h
  split at h
  case h_1 => cases h; rfl
  case h_2 => cases h; rfl
  case h_3 => exact exec_cfg h

/-- Settles O59: operation by operation. -/
theorem everyOperationKeepsTheInvariant : Obligations.EveryOperationKeepsTheInvariant := by
  intro s op b r hs h
  cases op with
  | reset => cases h; exact ⟨_, rfl, .resetOp s, rfl⟩
  | load rom =>
    simp only [State.apply] at h
    split at h
    case isTrue hfits => cases h; exact ⟨_, rfl, .loadRom s hfits, rfl⟩
    case isFalse => cases h; exact ⟨s, rfl, hs, rfl⟩
  | step =>
    simp only [State.apply] at h
    split at h
    case h_1 t hstep => cases h; exact ⟨t, rfl, hs.step hstep, step_cfg hstep⟩
    case h_2 => cases h
    case h_3 => cases h
  | tick => cases h; exact ⟨s.tick, rfl, hs, rfl⟩
  | setKey k pressed => cases h; exact ⟨s.setKey k pressed, rfl, hs, rfl⟩
  | skip => cases h; exact ⟨s.skip, rfl, hs.skip, s.cfg_skip⟩
  | readFramebuffer | readSoundActive | readState => cases h; exact ⟨s, rfl, hs, rfl⟩

end Sys2Proof.Machine
end

section
/-! Reset and the host's reads (spec/10_state.md R28, R31, R34 to R36; spec/20_memory.md R72). -/

namespace Sys2Proof.Machine

/-- Element `y * 64 + x` of the snapshot is the pixel of column x, row y (R28). -/
theorem State.getElem?_snapshot (s : State) {x y : Nat} (hx : x < 64) (hy : y < 32) :
    s.snapshot[y * 64 + x]? = some (s.fb.pixel x y) := by
  have hk : y * 64 + x < 2048 := by omega
  have hcol : (y * 64 + x) % 64 = x := by omega
  have hrow : (y * 64 + x) / 64 = y := by omega
  rw [State.snapshot, List.getElem?_map, List.getElem?_range hk, Option.map_some, hcol, hrow]

/-- Settles O57: the snapshot answers a read of the framebuffer. -/
theorem readsHaveNoSideEffect : Obligations.ReadsHaveNoSideEffect := fun s =>
  ⟨rfl, s.snapshot, rfl, by rw [State.snapshot, List.length_map, List.length_range],
    fun _ _ => s.getElem?_snapshot⟩

/-- Past the font an unlisted address reads as 0 (R34). -/
theorem resetByte_of_le {a : Nat} (ha : 80 ≤ a) : resetByte a = 0#8 :=
  List.getD_eq_default font 0#8 ha

/-- Settles O52: register by register, pixel by pixel and key by key; the font is the table of R72. -/
theorem resetStateIsAsListed : Obligations.ResetStateIsAsListed := by
  refine ⟨by decide, rfl, rfl, rfl, by decide, rfl, rfl, fun px py _ _ => ?_, by decide, by decide,
    fun a ha _ => resetByte_of_le ha, rfl, rfl⟩
  exact Framebuffer.pixel_blank px py

/-- Settles O55: the seven operations that need a state are refused. -/
theorem neverResetBlockRefuses : Obligations.NeverResetBlockRefuses := by
  intro c op hreset hload
  cases op with
  | reset => exact absurd rfl hreset
  | load rom => exact absurd rfl (hload rom)
  | step | tick | setKey _ _ | skip | readFramebuffer | readSoundActive | readState => rfl

/-- The code of a cause is at most 4 (R31). -/
theorem FaultCause.toNat_code_le (c : FaultCause) : c.code.toNat ≤ 4 := by
  cases c <;> decide

/-- Only `None` has the code 0 (R31). -/
theorem FaultCause.code_ne_zero {c : FaultCause} : c.code ≠ 0#3 ↔ c ≠ .none := by
  cases c <;> decide

/-- Settles O58: 0 is the code of `None` alone. -/
theorem faultCausesHaveTheListedCodes : Obligations.FaultCausesHaveTheListedCodes :=
  ⟨rfl, rfl, rfl, rfl, rfl, fun s => s.fault.cause.toNat_code_le,
    fun _ => State.faulted_eq_true.trans FaultCause.code_ne_zero.symm⟩

end Sys2Proof.Machine
end

section
/-! Memory (spec/20_memory.md R68, R69): the laws of one cell, and code that stores the instruction it runs next. -/

namespace Sys2Proof.Machine

variable {s : State}

/-- Settles O23: by the laws of the memory operations. -/
theorem memoryReadsTheLastWrite : Obligations.MemoryReadsTheLastWrite :=
  ⟨fun _ a a' b hm ha => ⟨Memory.wf_write b ha hm, Memory.read_write hm a a' b⟩,
    fun _ _ hm hm' => Memory.ext_of_read hm hm'⟩

/-- An array store whose last address lies below 4096 completes (R166). -/
theorem exec_storeRegs_of_inRange {x : Reg} (hx : s.addrI + x.val < memSize) :
    exec (.storeRegs x) s = .next ((s.setMem (s.mem.writeBytes s.addrI (s.regsTo x))).stepI x).advance := by
  have hc : checkRange s.i (x.val + 1) = none := checkRange_eq_none.2 (.inr hx)
  simp only [exec, execStoreRegs, hc]

/-- An array store leaves each stored register at its place from I on (R166). -/
theorem read_writeBytes_regsTo (hwf : s.mem.wf = true) {x : Reg} (hx : s.addrI + x.val < memSize) {k : Reg}
    (hk : k ≤ x) : (s.mem.writeBytes s.addrI (s.regsTo x)).read (s.addrI + k.val) = s.reg k := by
  have hlen := s.length_regsTo x
  have hk' : k.val ≤ x.val := hk
  rw [Memory.read_writeBytes (by omega) hwf, if_pos (by omega), Nat.add_sub_cancel_left, State.getD_regsTo s x k hk]

/-- A step runs the instruction its fetch found (R94 stage 3). -/
theorem step_of_fetch_eq_run {i : Instr} (h : s.fetch = .run i) : step s = exec i s := by
  simp only [step, h]

/-- Settles O24: after the store PC is the old I, and the two bytes from there on are V0 and V1. -/
theorem storeIsSeenByTheNextFetch : Obligations.StoreIsSeenByTheNextFetch := by
  intro s i hwf hf hI hpc hdec
  have hpc2 : (s.pc + 2#16).toNat = s.pc.toNat + 2 := toNat_add_of_fetched (by omega) (by decide)
  have hI' : s.addrI = s.pc.toNat + 2 := by rw [State.addrI, hI, hpc2]
  have hr : s.addrI + (1 : Reg).val < memSize := by rw [hI']; exact hpc
  refine ⟨_, exec_storeRegs_of_inRange hr, step_of_fetch_eq_run (State.fetch_eq_run.2 ⟨?_, ?_, ?_⟩)⟩
  · simpa [State.faulted] using hf
  · simpa [hpc2] using hpc
  · have h0 := read_writeBytes_regsTo hwf hr (k := 0) (by decide)
    have h1 := read_writeBytes_regsTo hwf hr (k := 1) (by decide)
    rw [Fin.val_zero, Nat.add_zero] at h0
    rw [Fin.val_one] at h1
    simpa [State.wordAtPc, hpc2, ← hI', h0, h1] using hdec

end Sys2Proof.Machine
end

section
/-! The timers and the key latch are the parts the host changes between steps (spec/60_exceptions.md R213, R215): an
instruction that does not use one of them acts alike before and after any change to it (spec/20_memory.md R71). -/

namespace Sys2Proof.Machine

/-- The state with DT, ST and KEYS each changed by a function: what `tick` and `set_key` have in common. -/
def State.mapInputs (dtf stf : Byte → Byte) (kf : BitVec 16 → BitVec 16) (s : State) : State :=
  { s with dt := dtf s.dt, st := stf s.st, keys := kf s.keys }

/-- The timer moves (R155 to R157). -/
def MovesTimer (i : Instr) : Prop := ∃ x, i = .ldVxDt x ∨ i = .ldDtVx x ∨ i = .ldStVx x

/-- The input instructions (R160 to R162). -/
def ReadsKeys (i : Instr) : Prop := ∃ x, i = .skp x ∨ i = .sknp x ∨ i = .ldVxK x

variable {s t : State} {dtf stf : Byte → Byte} {kf : BitVec 16 → BitVec 16}

theorem State.tick_eq_mapInputs (s : State) : s.tick = s.mapInputs countDown countDown id := rfl

theorem State.setKey_eq_mapInputs (s : State) (k : Key) (p : Bool) :
    s.setKey k p = s.mapInputs id id fun keys => if p then keys ||| (1#16 <<< k.val) else keys &&& ~~~(1#16 <<< k.val) :=
  rfl

@[simp] theorem State.mapInputs_i (s : State) : (s.mapInputs dtf stf kf).i = s.i := rfl
@[simp] theorem State.mapInputs_cfg (s : State) : (s.mapInputs dtf stf kf).cfg = s.cfg := rfl
@[simp] theorem State.mapInputs_keys (s : State) : (s.mapInputs dtf stf kf).keys = kf s.keys := rfl
@[simp] theorem State.mapInputs_mem (s : State) : (s.mapInputs dtf stf kf).mem = s.mem := rfl
@[simp] theorem State.addrI_mapInputs (s : State) : (s.mapInputs dtf stf kf).addrI = s.addrI := rfl
@[simp] theorem State.reg_mapInputs (s : State) (r : Reg) : (s.mapInputs dtf stf kf).reg r = s.reg r := rfl
@[simp] theorem State.regsTo_mapInputs (s : State) (x : Reg) : (s.mapInputs dtf stf kf).regsTo x = s.regsTo x := rfl
@[simp] theorem State.fetch_mapInputs (s : State) : (s.mapInputs dtf stf kf).fetch = s.fetch := rfl

/-! The operations that touch none of the three commute with the change. -/

@[simp] theorem State.advance_mapInputs (s : State) :
    (s.mapInputs dtf stf kf).advance = s.advance.mapInputs dtf stf kf := rfl

@[simp] theorem State.setReg_mapInputs (s : State) (x : Reg) (b : Byte) :
    (s.mapInputs dtf stf kf).setReg x b = (s.setReg x b).mapInputs dtf stf kf := rfl

@[simp] theorem State.setRegs_mapInputs (s : State) (bs : List Byte) :
    (s.mapInputs dtf stf kf).setRegs bs = (s.setRegs bs).mapInputs dtf stf kf := rfl

@[simp] theorem State.setMem_mapInputs (s : State) (m : Memory) :
    (s.mapInputs dtf stf kf).setMem m = (s.setMem m).mapInputs dtf stf kf := rfl

@[simp] theorem State.raise_mapInputs (s : State) (op : Word) (f : Fault) :
    (s.mapInputs dtf stf kf).raise op f = .next ((s.takeFault op f).mapInputs dtf stf kf) := rfl

@[simp] theorem State.stepI_mapInputs (s : State) (x : Reg) :
    (s.mapInputs dtf stf kf).stepI x = (s.stepI x).mapInputs dtf stf kf := by
  unfold State.stepI
  rw [apply_ite (State.mapInputs dtf stf kf)]
  rfl

@[simp] theorem State.logicFlag_mapInputs (s : State) :
    (s.mapInputs dtf stf kf).logicFlag = s.logicFlag.mapInputs dtf stf kf := by
  unfold State.logicFlag
  rw [apply_ite (State.mapInputs dtf stf kf)]
  rfl

/-- An instruction commutes with every change of the timers it does not move and of the key latch it does not read. -/
theorem exec_mapInputs {i : Instr} (hT : MovesTimer i → dtf = id ∧ stf = id) (hK : ReadsKeys i → kf = id)
    (h : exec i s = .next t) : exec i (s.mapInputs dtf stf kf) = .next (t.mapInputs dtf stf kf) := by
  cases i
  case ldVxDt x => obtain ⟨rfl, rfl⟩ := hT ⟨x, .inl rfl⟩; cases h; rfl
  case ldDtVx x => obtain ⟨rfl, rfl⟩ := hT ⟨x, .inr (.inl rfl)⟩; cases h; rfl
  case ldStVx x => obtain ⟨rfl, rfl⟩ := hT ⟨x, .inr (.inr rfl)⟩; cases h; rfl
  case skp x => obtain rfl := hK ⟨x, .inl rfl⟩; cases h; rfl
  case sknp x => obtain rfl := hK ⟨x, .inr (.inl rfl)⟩; cases h; rfl
  case ldVxK x =>
    obtain rfl := hK ⟨x, .inr (.inr rfl)⟩
    obtain ⟨hk, rfl⟩ | ⟨k, hk, rfl⟩ := exec_ldVxK_cases h <;> simp [exec, execLdVxK, hk]
  case ret =>
    obtain ⟨hsp, rfl⟩ | ⟨hsp, rfl⟩ := exec_ret_cases h
    · exact dif_neg (Nat.not_lt.2 hsp.le)
    · exact dif_pos hsp
  case call =>
    obtain ⟨hsp, rfl⟩ | ⟨hsp, rfl⟩ := exec_call_cases h
    · exact dif_neg (Nat.not_lt.2 hsp.ge)
    · exact dif_pos hsp
  case drw =>
    obtain ⟨_, hc, rfl⟩ | ⟨hc, rfl⟩ := exec_drw_cases h <;>
      simp only [exec, execDrw, State.mapInputs_i, hc] <;> rfl
  case ldB => obtain ⟨_, hc, rfl⟩ | ⟨hc, rfl⟩ := exec_ldB_cases h <;> simp [exec, execLdB, hc]
  case storeRegs => obtain ⟨_, hc, rfl⟩ | ⟨hc, rfl⟩ := exec_storeRegs_cases h <;> simp [exec, execStoreRegs, hc]
  case loadRegs => obtain ⟨_, hc, rfl⟩ | ⟨hc, rfl⟩ := exec_loadRegs_cases h <;> simp [exec, execLoadRegs, hc]
  case or => cases h; simp [exec, execOr, State.logic]
  case and => cases h; simp [exec, execAnd, State.logic]
  case xor => cases h; simp [exec, execXor, State.logic]
  case cls | jp | jpV0 | seImm | sneImm | seReg | sneReg | ldI | addI | ldF | ldImm | addImm | ldReg | addReg | sub |
      shr | subn | shl | rnd =>
    cases h; rfl

/-- A step fetches the same after such a change, so it commutes where the fetched instruction does. -/
theorem step_mapInputs (hT : ∀ i, s.fetch = .run i → MovesTimer i → dtf = id ∧ stf = id)
    (hK : ∀ i, s.fetch = .run i → ReadsKeys i → kf = id) (h : step s = .next t) :
    step (s.mapInputs dtf stf kf) = .next (t.mapInputs dtf stf kf) := by
  unfold step at h ⊢
  rw [State.fetch_mapInputs]
  cases hf : s.fetch with
  | halted => rw [hf] at h; cases h; rfl
  | raised op f => rw [hf] at h; cases h; rfl
  | run i => rw [hf] at h; exact exec_mapInputs (hT i hf) (hK i hf) h

/-- Settles O22: a tick leaves the key latch, a key change the timers. -/
theorem ticksAndKeyChangesCommuteWithOtherSteps : Obligations.TicksAndKeyChangesCommuteWithOtherSteps := by
  refine ⟨fun s t hno h => ?_, fun s t k p hno h => ?_⟩
  · rw [State.tick_eq_mapInputs, State.tick_eq_mapInputs]
    refine step_mapInputs ?_ (fun _ _ _ => rfl) h
    rintro _ hf ⟨x, hx⟩
    obtain ⟨h₁, h₂, h₃⟩ := hno x
    rcases hx with rfl | rfl | rfl
    exacts [absurd hf h₁, absurd hf h₂, absurd hf h₃]
  · rw [State.setKey_eq_mapInputs, State.setKey_eq_mapInputs]
    refine step_mapInputs (fun _ _ _ => ⟨rfl, rfl⟩) ?_ h
    rintro _ hf ⟨x, hx⟩
    obtain ⟨h₁, h₂, h₃⟩ := hno x
    rcases hx with rfl | rfl | rfl
    exacts [absurd hf h₁, absurd hf h₂, absurd hf h₃]

end Sys2Proof.Machine
end

section
/-! A word and its fields (spec/30_encoding.md R91, R92): the formats build a word from its fields, the fields read them
back, and the four masks of the opcode map (R95) compare the fields a row fixes. -/

namespace Sys2Proof

variable {w p : Word} {c n : Nibble} {kk : Byte}

/-! ### A word is made of its fields -/

theorem packNNN_fields (w : Word) : packNNN (w.extractLsb' 12 4) (fieldNNN w) = w :=
  BitVec.extractLsb'_append_extractLsb'

theorem packXKK_fields (w : Word) : packXKK (w.extractLsb' 12 4) (fieldX w) (fieldKK w) = w := by
  have hcx : w.extractLsb' 12 4 ++ w.extractLsb' 8 4 = w.extractLsb' 8 8 :=
    BitVec.extractLsb'_append_extractLsb'_eq_extractLsb' rfl
  calc packXKK (w.extractLsb' 12 4) (fieldX w) (fieldKK w)
      = w.extractLsb' 12 4 ++ w.extractLsb' 8 4 ++ w.extractLsb' 0 8 := rfl
    _ = w := by rw [hcx]; exact BitVec.extractLsb'_append_extractLsb'

/-- Format XYN is format XKK with y and n for kk (R92). -/
theorem packXYN_eq_packXKK (c : Nibble) (x y : Reg) (n : Nibble) : packXYN c x y n = packXKK c x (regBits y ++ n) :=
  BitVec.append_assoc ..

theorem packXYN_fields (w : Word) : packXYN (w.extractLsb' 12 4) (fieldX w) (fieldY w) (fieldN w) = w := by
  have hyn : regBits (fieldY w) ++ fieldN w = fieldKK w :=
    BitVec.extractLsb'_append_extractLsb'_eq_extractLsb' rfl
  rw [packXYN_eq_packXKK, hyn, packXKK_fields]

theorem packNNN_of_fields (hc : w.extractLsb' 12 4 = c) : packNNN c (fieldNNN w) = w := by
  rw [← hc, packNNN_fields]

theorem packXKK_of_fields (hc : w.extractLsb' 12 4 = c) (hkk : w.extractLsb' 0 8 = kk) :
    packXKK c (fieldX w) kk = w := by
  rw [← hc, ← hkk]
  exact packXKK_fields w

theorem packXYN_of_fields (hc : w.extractLsb' 12 4 = c) (hn : w.extractLsb' 0 4 = n) :
    packXYN c (fieldX w) (fieldY w) n = w := by
  rw [← hc, ← hn]
  exact packXYN_fields w

theorem word_eq_iff : w = p ↔ w.extractLsb' 12 4 = p.extractLsb' 12 4 ∧ fieldNNN w = fieldNNN p := by
  constructor
  · rintro rfl
    exact ⟨rfl, rfl⟩
  · rintro ⟨h, h'⟩
    rw [← packNNN_fields w, h, h', packNNN_fields]

/-! ### The fields of a packed word -/

@[simp] theorem fieldNNN_packNNN (c : Nibble) (nnn : Addr12) : fieldNNN (packNNN c nnn) = nnn :=
  BitVec.extractLsb'_append_eq_right

@[simp] theorem fieldX_packXKK (c : Nibble) (x : Reg) (kk : Byte) : fieldX (packXKK c x kk) = x := by
  have hx : (packXKK c x kk).extractLsb' 8 4 = regBits x := by
    rw [packXKK, BitVec.extractLsb'_append_eq_of_le (Nat.le_refl 8)]
    exact BitVec.extractLsb'_append_eq_right
  exact congrArg BitVec.toFin hx

@[simp] theorem fieldKK_packXKK (c : Nibble) (x : Reg) (kk : Byte) : fieldKK (packXKK c x kk) = kk :=
  low8_packXKK c x kk

@[simp] theorem fieldX_packXYN (c : Nibble) (x y : Reg) (n : Nibble) : fieldX (packXYN c x y n) = x := by
  rw [packXYN_eq_packXKK, fieldX_packXKK]

@[simp] theorem fieldY_packXYN (c : Nibble) (x y : Reg) (n : Nibble) : fieldY (packXYN c x y n) = y := by
  have hy : (packXYN c x y n).extractLsb' 4 4 = regBits y := by
    rw [packXYN, BitVec.extractLsb'_append_eq_of_le (Nat.le_refl 4)]
    exact BitVec.extractLsb'_append_eq_right
  exact congrArg BitVec.toFin hy

@[simp] theorem fieldN_packXYN (c : Nibble) (x y : Reg) (n : Nibble) : fieldN (packXYN c x y n) = n :=
  low4_packXYN c x y n

/-! ### The masks of the opcode map (R95) -/

theorem and_FFFF (w : Word) : w &&& 0xFFFF#16 = w := BitVec.and_allOnes

theorem and_F000_eq_iff (hp : fieldNNN p = 0#12) :
    w &&& 0xF000#16 = p ↔ w.extractLsb' 12 4 = p.extractLsb' 12 4 := by
  have hc : (w &&& 0xF000#16).extractLsb' 12 4 = w.extractLsb' 12 4 := BitVec.extractLsb'_and.trans BitVec.and_allOnes
  have hnnn : fieldNNN (w &&& 0xF000#16) = 0#12 := BitVec.extractLsb'_and.trans BitVec.and_zero
  rw [word_eq_iff, hc, hnnn, hp]
  exact and_iff_left rfl

theorem and_F0FF_eq_iff (hp : fieldX p = 0) :
    w &&& 0xF0FF#16 = p ↔ w.extractLsb' 12 4 = p.extractLsb' 12 4 ∧ w.extractLsb' 0 8 = p.extractLsb' 0 8 := by
  have hc : (w &&& 0xF0FF#16).extractLsb' 12 4 = w.extractLsb' 12 4 := BitVec.extractLsb'_and.trans BitVec.and_allOnes
  have hx : fieldX (w &&& 0xF0FF#16) = 0 := congrArg BitVec.toFin (BitVec.extractLsb'_and.trans BitVec.and_zero)
  have hkk : fieldKK (w &&& 0xF0FF#16) = fieldKK w := BitVec.extractLsb'_and.trans BitVec.and_allOnes
  constructor
  · rintro rfl
    exact ⟨hc.symm, hkk.symm⟩
  · rintro ⟨h, h'⟩
    rw [← packXKK_fields (w &&& 0xF0FF#16), hc, hx, hkk, ← hp]
    exact packXKK_of_fields h.symm h'.symm

theorem and_F00F_eq_iff (hpx : fieldX p = 0) (hpy : fieldY p = 0) :
    w &&& 0xF00F#16 = p ↔ w.extractLsb' 12 4 = p.extractLsb' 12 4 ∧ w.extractLsb' 0 4 = p.extractLsb' 0 4 := by
  have hc : (w &&& 0xF00F#16).extractLsb' 12 4 = w.extractLsb' 12 4 := BitVec.extractLsb'_and.trans BitVec.and_allOnes
  have hx : fieldX (w &&& 0xF00F#16) = 0 := congrArg BitVec.toFin (BitVec.extractLsb'_and.trans BitVec.and_zero)
  have hy : fieldY (w &&& 0xF00F#16) = 0 := congrArg BitVec.toFin (BitVec.extractLsb'_and.trans BitVec.and_zero)
  have hn : fieldN (w &&& 0xF00F#16) = fieldN w := BitVec.extractLsb'_and.trans BitVec.and_allOnes
  constructor
  · rintro rfl
    exact ⟨hc.symm, hn.symm⟩
  · rintro ⟨h, h'⟩
    rw [← packXYN_fields (w &&& 0xF00F#16), ← packXYN_fields p, hc, hx, hy, hn, hpx, hpy, h]
    exact congrArg (packXYN _ 0 0) h'

end Sys2Proof
end

section
/-! The decoder by the rows of the opcode map (spec/30_encoding.md R94 stage 2, R95, R96). -/

namespace Sys2Proof

variable {w : Word} {r r' : OpcodeRow} {i : Instr}

/-! ### A word matches at most one row -/

theorem rowMatches_iff : rowMatches w r = true ↔ w &&& r.mask = r.pattern := beq_iff_eq

/-- Two rows have patterns that differ where both masks look. -/
theorem opcodeTable_disjoint : ∀ j k : Fin opcodeTable.length,
    (opcodeTable.get j).pattern &&& (opcodeTable.get k).mask = (opcodeTable.get k).pattern &&& (opcodeTable.get j).mask →
      j = k := by decide

theorem row_index_unique {j k : Nat} (hj : opcodeTable[j]? = some r) (hk : opcodeTable[k]? = some r')
    (hm : w &&& r.mask = r.pattern) (hm' : w &&& r'.mask = r'.pattern) : j = k := by
  obtain ⟨hjl, rfl⟩ := List.getElem?_eq_some_iff.1 hj
  obtain ⟨hkl, rfl⟩ := List.getElem?_eq_some_iff.1 hk
  refine congrArg Fin.val (opcodeTable_disjoint ⟨j, hjl⟩ ⟨k, hkl⟩ ?_)
  simp only [List.get_eq_getElem]
  rw [← hm, ← hm', BitVec.and_assoc, BitVec.and_assoc, BitVec.and_comm opcodeTable[j].mask]

theorem row_unique (hr : r ∈ opcodeTable) (hr' : r' ∈ opcodeTable) (hm : w &&& r.mask = r.pattern)
    (hm' : w &&& r'.mask = r'.pattern) : r = r' := by
  obtain ⟨j, hj⟩ := List.mem_iff_getElem?.1 hr
  obtain ⟨k, hk⟩ := List.mem_iff_getElem?.1 hr'
  obtain rfl := row_index_unique hj hk hm hm'
  exact Option.some.inj (hj.symm.trans hk)

/-! ### What the decoder answers -/

theorem decodeWord_eq_some : decodeWord w = some i ↔ ∃ r ∈ opcodeTable, w &&& r.mask = r.pattern ∧ r.build w = i := by
  unfold decodeWord
  constructor
  · intro h
    obtain ⟨r, hr, hi⟩ := Option.map_eq_some_iff.1 h
    exact ⟨r, List.mem_of_find?_eq_some hr, rowMatches_iff.1 (List.find?_some hr), hi⟩
  · rintro ⟨r, hr, hm, rfl⟩
    cases hf : opcodeTable.find? (rowMatches w) with
    | none => exact absurd (rowMatches_iff.2 hm) (List.find?_eq_none.1 hf r hr)
    | some r' =>
      rw [row_unique hr (List.mem_of_find?_eq_some hf) hm (rowMatches_iff.1 (List.find?_some hf))]
      rfl

theorem decodeWord_eq_none : decodeWord w = none ↔ ∀ r ∈ opcodeTable, ¬ w &&& r.mask = r.pattern := by
  simp only [decodeWord, Option.map_eq_none_iff, List.find?_eq_none, rowMatches_iff]

/-- A word that matches a row spells that row's instruction (R95). -/
theorem spells_of_mem (hr : r ∈ opcodeTable) : Machine.spells r.mask r.pattern r.build :=
  fun _ hm => decodeWord_eq_some.2 ⟨r, hr, hm, rfl⟩

/-- Settles O3: a word that matches two rows agrees with both patterns where both masks look. -/
theorem everyWordMatchesAtMostOneRow : Obligations.EveryWordMatchesAtMostOneRow :=
  ⟨rfl, fun w _ hr => spells_of_mem hr w, fun _ _ _ _ _ hj hk hm hm' => Fin.ext (row_index_unique hj hk hm hm')⟩

/-- Settles O5: the rows of the opcode map, evaluated. -/
theorem sampleWordsDecodeAsListed : Obligations.SampleWordsDecodeAsListed := by
  unfold Obligations.SampleWordsDecodeAsListed
  decide

/-! ### Decoding an encoded instruction, format by format (R92) -/

theorem decodeWord_packNNN {c : Nibble} {build : Addr12 → Instr}
    (hr : ⟨0xF000#16, packNNN c 0#12, fun w => build (fieldNNN w)⟩ ∈ opcodeTable) (nnn : Addr12) :
    decodeWord (packNNN c nnn) = some (build nnn) := by
  have hm : packNNN c nnn &&& 0xF000#16 = packNNN c 0#12 :=
    (and_F000_eq_iff (by simp)).2 (by simp only [class_packNNN])
  simpa using spells_of_mem hr _ hm

theorem decodeWord_packXKK {c : Nibble} {build : Reg → Byte → Instr}
    (hr : ⟨0xF000#16, packNNN c 0#12, fun w => build (fieldX w) (fieldKK w)⟩ ∈ opcodeTable) (x : Reg) (kk : Byte) :
    decodeWord (packXKK c x kk) = some (build x kk) := by
  have hm : packXKK c x kk &&& 0xF000#16 = packNNN c 0#12 :=
    (and_F000_eq_iff (by simp)).2 (by simp only [class_packNNN, class_packXKK])
  simpa using spells_of_mem hr _ hm

theorem decodeWord_packXYN {c : Nibble} {build : Reg → Reg → Nibble → Instr}
    (hr : ⟨0xF000#16, packNNN c 0#12, fun w => build (fieldX w) (fieldY w) (fieldN w)⟩ ∈ opcodeTable) (x y : Reg)
    (n : Nibble) : decodeWord (packXYN c x y n) = some (build x y n) := by
  have hm : packXYN c x y n &&& 0xF000#16 = packNNN c 0#12 :=
    (and_F000_eq_iff (by simp)).2 (by simp only [class_packNNN, class_packXYN])
  simpa using spells_of_mem hr _ hm

theorem decodeWord_packXY {c n : Nibble} {build : Reg → Reg → Instr}
    (hr : ⟨0xF00F#16, packXYN c 0 0 n, fun w => build (fieldX w) (fieldY w)⟩ ∈ opcodeTable) (x y : Reg) :
    decodeWord (packXYN c x y n) = some (build x y) := by
  have hm : packXYN c x y n &&& 0xF00F#16 = packXYN c 0 0 n :=
    (and_F00F_eq_iff (by simp) (by simp)).2 (by simp only [class_packXYN, low4_packXYN, and_self])
  simpa using spells_of_mem hr _ hm

theorem decodeWord_packX {c : Nibble} {kk : Byte} {build : Reg → Instr}
    (hr : ⟨0xF0FF#16, packXKK c 0 kk, fun w => build (fieldX w)⟩ ∈ opcodeTable) (x : Reg) :
    decodeWord (packXKK c x kk) = some (build x) := by
  have hm : packXKK c x kk &&& 0xF0FF#16 = packXKK c 0 kk :=
    (and_F0FF_eq_iff (by simp)).2 (by simp only [class_packXKK, low8_packXKK, and_self])
  simpa using spells_of_mem hr _ hm

/-- Every operand at every value, by the format of the instruction's row. -/
theorem decodeWord_encode (i : Instr) : decodeWord (encode i) = some i := by
  cases i
  case cls | ret => decide
  case jp nnn | call nnn | ldI nnn | jpV0 nnn =>
    exact decodeWord_packNNN
      (by simp [opcodeTable, opcodeRowsA, opcodeRowsB, opcodeRowsC, opcodeRowsD, packNNN]) nnn
  case seImm x kk | sneImm x kk | ldImm x kk | addImm x kk | rnd x kk =>
    exact decodeWord_packXKK
      (by simp [opcodeTable, opcodeRowsA, opcodeRowsB, opcodeRowsC, opcodeRowsD, packNNN]) x kk
  case drw x y n =>
    exact decodeWord_packXYN
      (by simp [opcodeTable, opcodeRowsA, opcodeRowsB, opcodeRowsC, opcodeRowsD, packNNN]) x y n
  case seReg x y | ldReg x y | or x y | and x y | xor x y | addReg x y | sub x y | shr x y | subn x y | shl x y |
      sneReg x y =>
    exact decodeWord_packXY
      (by simp [opcodeTable, opcodeRowsA, opcodeRowsB, opcodeRowsC, opcodeRowsD, packXYN, regBits]) x y
  case skp x | sknp x | ldVxDt x | ldVxK x | ldDtVx x | ldStVx x | addI x | ldF x | ldB x | storeRegs x | loadRegs x =>
    exact decodeWord_packX
      (by simp [opcodeTable, opcodeRowsA, opcodeRowsB, opcodeRowsC, opcodeRowsD, packXKK, regBits]) x

theorem wordOfBytes_of_word (w : Word) : wordOfBytes (w.extractLsb' 8 8) (w.extractLsb' 0 8) = w :=
  BitVec.extractLsb'_append_extractLsb'

/-- The decoder on bytes reads two of them and leaves the rest (R90). -/
theorem decode_eq_ok {hi lo : Byte} {rest : List Byte} :
    decode (hi :: lo :: rest) = .ok (i, rest) ↔ decodeWord (wordOfBytes hi lo) = some i := by
  rw [decode]
  cases decodeWord (wordOfBytes hi lo) <;> simp

/-- Settles O1: constructor by constructor, by the format of its row. -/
theorem decodeOfEncodeIsTheInstruction : Obligations.DecodeOfEncodeIsTheInstruction := fun i _ _ =>
  ⟨decodeWord_encode i, decode_eq_ok.2 ((congrArg decodeWord (wordOfBytes_of_word _)).trans (decodeWord_encode i))⟩

/-! ### Encoding a decoded instruction, and the illegal words, row by row -/

/-- The masked bits of a matching word are those the encoder writes, and the fields of the row are the other bits. -/
theorem encode_build : ∀ r ∈ opcodeTable, w &&& r.mask = r.pattern → encode (r.build w) = w := by
  simp (disch := decide) only [opcodeTable, opcodeRowsA, opcodeRowsB, opcodeRowsC, opcodeRowsD, List.cons_append,
    List.nil_append, List.forall_mem_cons, and_FFFF, and_F000_eq_iff, and_F0FF_eq_iff, and_F00F_eq_iff]
  simp +contextual [encode, fieldKK, fieldN, packNNN_of_fields, packXKK_of_fields, packXYN_of_fields]

/-- Settles O2: a row's instruction, encoded, has the class and the low bits the row fixes and the fields it reads. -/
theorem encodeOfDecodeIsTheWord : Obligations.EncodeOfDecodeIsTheWord := by
  intro w i h
  obtain ⟨r, hr, hm, rfl⟩ := decodeWord_eq_some.1 h
  exact encode_build r hr hm

theorem nibble_cases (c : Nibble) : c = 0x0#4 ∨ c = 0x1#4 ∨ c = 0x2#4 ∨ c = 0x3#4 ∨ c = 0x4#4 ∨ c = 0x5#4 ∨
    c = 0x6#4 ∨ c = 0x7#4 ∨ c = 0x8#4 ∨ c = 0x9#4 ∨ c = 0xA#4 ∨ c = 0xB#4 ∨ c = 0xC#4 ∨ c = 0xD#4 ∨ c = 0xE#4 ∨
    c = 0xF#4 := by
  revert c
  decide

/-- Class 8: the low nibbles R96 (c) lists are those of none of its nine rows. -/
theorem mem_illegalLow8_iff : ∀ n : Nibble, n ∈ [0x8#4, 0x9#4, 0xA#4, 0xB#4, 0xC#4, 0xD#4, 0xF#4] ↔
    n ∉ [0x0#4, 0x1#4, 0x2#4, 0x3#4, 0x4#4, 0x5#4, 0x6#4, 0x7#4, 0xE#4] := by decide

/-- The table and the list of R96 agree class by class: in each class both constrain the same low bits, or neither does. -/
theorem decodeWord_eq_none_iff_illegalWord : decodeWord w = none ↔ illegalWord w = true := by
  rw [decodeWord_eq_none]
  simp (disch := decide) only [opcodeTable, opcodeRowsA, opcodeRowsB, opcodeRowsC, opcodeRowsD, List.cons_append,
    List.nil_append, List.forall_mem_cons, and_FFFF, and_F000_eq_iff, and_F0FF_eq_iff, and_F00F_eq_iff]
  simp only [illegalWord, illegalClass0, illegalClass5, illegalClass8, illegalClass9, illegalClassE, illegalClassF,
    List.contains_iff_mem, mem_illegalLow8_iff, word_eq_iff, Bool.or_eq_true, Bool.and_eq_true, Bool.not_eq_true',
    beq_iff_eq, beq_eq_false_iff_ne, ne_eq]
  rcases nibble_cases (w.extractLsb' 12 4) with hc | hc | hc | hc | hc | hc | hc | hc | hc | hc | hc | hc | hc | hc | hc |
    hc <;> simp [hc]

end Sys2Proof
end

section
/-! Stages 0 to 3 of a step (spec/30_encoding.md R94; spec/60_exceptions.md R201, R204, R208): what the step comes to once
its fetch is known, and the fetch of a word placed at PC (log entry 5). -/

namespace Sys2Proof.Machine

variable {s : State} {i : Instr}

/-- A raise of the fetch or the decoder is fault entry (R208). -/
theorem step_of_fetch_eq_raised {op : Word} {f : Fault} (h : s.fetch = .raised op f) :
    step s = .next (s.takeFault op f) := by
  simp only [step, h, State.raise]

/-- Settles O4: the decoder knows no illegal word, so the step raises `UnknownOpcode`. -/
theorem illegalWordsAreExactlyTheListedOnes : Obligations.IllegalWordsAreExactlyTheListedOnes :=
  ⟨fun _ => decodeWord_eq_none_iff_illegalWord, fun _ hf hpc hill => step_of_fetch_eq_raised
    (State.fetch_eq_raised.2 ⟨hf, .inr ⟨hpc, decodeWord_eq_none_iff_illegalWord.2 hill, rfl, rfl⟩⟩)⟩

/-- Settles O6: the fetch finds the instruction. -/
theorem stepRunsTheDecodedInstruction : Obligations.StepRunsTheDecodedInstruction := fun _ _ _ hf hpc hdec =>
  step_of_fetch_eq_run (State.fetch_eq_run.2 ⟨hf, hpc, decode_eq_ok.1 hdec⟩)

/-- Settles O8: the fetch raises before any byte is read. -/
theorem fetchPastTheEndIsOutOfBounds : Obligations.FetchPastTheEndIsOutOfBounds := fun _ hf hpc =>
  step_of_fetch_eq_raised (State.fetch_eq_raised.2 ⟨hf, .inl ⟨hpc, rfl, rfl⟩⟩)

/-! ### A word placed at PC (log entry 5) -/

theorem tableWord_toNat (w : Word) : tableWord 16 w.toNat = w := by
  rw [tableWord, Nat.mod_eq_of_lt w.isLt, BitVec.ofNat_toNat, BitVec.setWidth_eq]

theorem State.faulted_fetchable (s : State) : s.fetchable.faulted = false := by
  unfold State.fetchable
  cases hf : s.faulted
  case false => exact hf
  case true => rfl

theorem State.pc_fetchable_lt (s : State) : s.fetchable.pc.toNat + 1 < memSize := by
  unfold State.fetchable
  dsimp only
  split
  case isTrue hpc => exact hpc
  case isFalse => decide

/-- The word placed at PC is the word read there, high byte first (R65). -/
theorem State.wordAtPc_placeWord (hwf : s.mem.wf = true) (w : Word) : (s.placeWord w).wordAtPc = w := by
  have hlen : s.fetchable.pc.toNat + (bytesOfWord w).length ≤ memSize := s.pc_fetchable_lt
  have hread := Memory.read_writeBytes hlen hwf
  have hhi : (s.placeWord w).mem.read s.fetchable.pc.toNat = w.extractLsb' 8 8 :=
    (hread _).trans (by simp [bytesOfWord])
  have hlo : (s.placeWord w).mem.read (s.fetchable.pc.toNat + 1) = w.extractLsb' 0 8 :=
    (hread _).trans (by simp [bytesOfWord])
  calc (s.placeWord w).wordAtPc = wordOfBytes (w.extractLsb' 8 8) (w.extractLsb' 0 8) := congrArg₂ wordOfBytes hhi hlo
    _ = w := wordOfBytes_of_word w

theorem State.fetch_placeWord (hwf : s.mem.wf = true) {w : Word} (hdec : decodeWord w = some i) :
    (s.placeWord w).fetch = .run i :=
  State.fetch_eq_run.2 ⟨s.faulted_fetchable, s.pc_fetchable_lt, by rw [State.wordAtPc_placeWord hwf, hdec]⟩

/-- Settles O7: the placed word is fetched and decodes to the instruction it encodes. -/
theorem placedWordIsTheNextInstruction : Obligations.PlacedWordIsTheNextInstruction := by
  intro s i hwf
  refine step_of_fetch_eq_run (State.fetch_placeWord hwf ?_)
  rw [tableWord_toNat, decodeWord_encode]

/-! ### A next state always -/

/-- Every instruction answers a next state: a raise is one too (R208). -/
theorem exec_total (i : Instr) (s : State) : ∃ t, exec i s = .next t := by
  cases i
  case ret => simp only [exec, execRet]; split <;> exact ⟨_, rfl⟩
  case call => simp only [exec, execCall]; split <;> exact ⟨_, rfl⟩
  case drw => simp only [exec, execDrw]; split <;> exact ⟨_, rfl⟩
  case ldB => simp only [exec, execLdB]; split <;> exact ⟨_, rfl⟩
  case storeRegs => simp only [exec, execStoreRegs]; split <;> exact ⟨_, rfl⟩
  case loadRegs => simp only [exec, execLoadRegs]; split <;> exact ⟨_, rfl⟩
  case ldVxK => simp only [exec, execLdVxK]; split <;> exact ⟨_, rfl⟩
  all_goals exact ⟨_, rfl⟩

/-- Settles O13: by the stages of a step. -/
theorem everyStepAnswersANextState : Obligations.EveryStepAnswersANextState := by
  intro s
  cases hf : s.fetch with
  | halted => exact ⟨s, by simp only [step, hf]⟩
  | raised op f => exact ⟨_, step_of_fetch_eq_raised hf⟩
  | run i =>
    rw [step_of_fetch_eq_run hf]
    exact exec_total i s

end Sys2Proof.Machine
end

section
/-! Arithmetic and logic (spec/40_arithmetic_logic.md R110 to R123): the flags in numbers, a register after each shared
operation of R110, and the statement of each instruction. -/

namespace Sys2Proof.Machine

/-- Row k of the opcode map, counted from 0, spells its instruction (R95). -/
theorem spells_row (k : Fin 34) :
    spells (opcodeTable.get k).mask (opcodeTable.get k).pattern (opcodeTable.get k).build :=
  spells_of_mem (opcodeTable.get_mem k)

/-! ### The flags in numbers -/

theorem toNat_flagByte (c : Bool) : (flagByte c).toNat = c.toNat := by
  cases c <;> rfl

theorem toNat_flagByte_decide (p : Prop) [Decidable p] : (flagByte (decide p)).toNat = if p then 1 else 0 := by
  rw [toNat_flagByte]
  split <;> simp [*]

theorem toNat_flagByte_carry (a b : Byte) :
    (flagByte (carry a b)).toNat = if 255 < a.toNat + b.toNat then 1 else 0 := toNat_flagByte_decide _

theorem toNat_flagByte_noBorrow (a b : Byte) :
    (flagByte (noBorrow a b)).toNat = if b.toNat ≤ a.toNat then 1 else 0 := toNat_flagByte_decide _

theorem toNat_flagByte_outRight (b : Byte) : (flagByte (outRight b)).toNat = b.toNat % 2 := by
  rw [toNat_flagByte, outRight, BitVec.getLsbD, Nat.toNat_testBit, Nat.pow_zero, Nat.div_one]

theorem toNat_flagByte_outLeft (b : Byte) : (flagByte (outLeft b)).toNat = b.toNat / 128 := by
  have hb := b.isLt
  rw [toNat_flagByte, outLeft, BitVec.getLsbD, Nat.toNat_testBit]
  omega

/-! ### The results in numbers -/

theorem toNat_shiftRight_one (b : Byte) : (b >>> 1).toNat = b.toNat / 2 := by
  rw [BitVec.toNat_ushiftRight, Nat.shiftRight_eq_div_pow, Nat.pow_one]

theorem toNat_shiftLeft_one (b : Byte) : (b <<< 1).toNat = 2 * b.toNat % 256 := by
  rw [BitVec.toNat_shiftLeft, Nat.shiftLeft_eq, Nat.pow_one, Nat.mul_comm]

/-- A difference modulo 256 is the difference, plus 256 on a borrow (R118, R120). -/
theorem toNat_sub_byte (a b : Byte) :
    (a - b).toNat = if b.toNat ≤ a.toNat then a.toNat - b.toNat else a.toNat + 256 - b.toNat := by
  have ha := a.isLt
  have hb := b.isLt
  rw [BitVec.toNat_sub]
  split <;> omega

/-! ### A register after each shared operation -/

/-- A register after a logic operation: the quirk's clear comes last (R114 to R116). -/
theorem State.reg_logic (s : State) (f : Byte → Byte → Byte) (x y r : Reg) :
    (s.logic f x y).reg r = if r = VF ∧ s.cfg.quirkLogicClearsVf = true then 0#8
      else if r = x then f (s.reg x) (s.reg y) else s.reg r := by
  simp only [State.logic, State.reg_logicFlag, State.setReg_cfg, State.reg_setReg]

/-- A register after a result and its flag: the flag comes last (R110). -/
theorem State.reg_setWithFlag (s : State) (x r : Reg) (b : Byte) (c : Bool) :
    (s.setWithFlag x b c).reg r = if r = VF then flagByte c else if r = x then b else s.reg r := by
  simp only [State.setWithFlag, State.reg_setFlag, State.reg_setReg]

/-- A register after a shift: the flag comes first, and the shift reads its source after that (R110). -/
theorem State.reg_shift (s : State) (out : Byte → Bool) (f : Byte → Byte) (x src r : Reg) :
    (s.shift out f x src).reg r =
      if r = x then f (if src = VF then flagByte (out (s.reg src)) else s.reg src)
      else if r = VF then flagByte (out (s.reg src)) else s.reg r := by
  simp only [State.shift, State.reg_setReg, State.reg_setFlag]

/-! ### Loads, the immediate add and the random byte -/

/-- Settles O25: the register write of each load, and the frame. -/
theorem loadsWriteVx : Obligations.LoadsWriteVx :=
  ⟨spells_row 7, spells_row 9,
    fun s x kk => ⟨_, rfl, fun r => s.reg_setReg x r kk, rfl, exec_frame (i := .ldImm x kk) rfl⟩,
    fun s x y => ⟨_, rfl, fun r => s.reg_setReg x r (s.reg y), rfl, exec_frame (i := .ldReg x y) rfl⟩⟩

/-- Settles O26: a sum of bytes is the sum modulo 256, and no register but Vx is written. -/
theorem addImmediateWrapsWithoutFlag : Obligations.AddImmediateWrapsWithoutFlag := by
  refine ⟨spells_row 8, fun s x kk => ⟨_, rfl, ?_, fun r hr => ?_, rfl, exec_frame (i := .addImm x kk) rfl⟩⟩
  · rw [State.reg_advance, State.reg_setReg, if_pos rfl, BitVec.toNat_add]
  · rw [State.reg_advance, State.reg_setReg, if_neg hr]

/-- Settles O32: the mask clears every bit that kk lacks, whatever byte is drawn. -/
theorem randomByteIsMasked : Obligations.RandomByteIsMasked := by
  refine ⟨spells_row 21, fun s x kk => ⟨_, Config.rnd s.draws, rfl, rfl, rfl, fun r => s.draw.2.reg_setReg x r _, ?_,
    rfl, exec_frame (i := .rnd x kk) rfl⟩⟩
  rw [State.reg_advance, State.reg_setReg, if_pos rfl, BitVec.and_assoc, BitVec.and_not_self]
  exact BitVec.and_zero

/-! ### Logic -/

/-- A logic operation that acts bit by bit has the effect of R114 to R116. -/
theorem logicEffect_logic {f : Byte → Byte → Byte} {g : Bool → Bool → Bool}
    (hfg : ∀ (a b : Byte) (k : Nat), (f a b).getLsbD k = g (a.getLsbD k) (b.getLsbD k)) (x y : Reg) (s : State) :
    logicEffect g x y s (s.logic f x y).advance := by
  refine ⟨fun r k => ?_, ?_, ?_⟩
  · simp only [State.reg_advance, State.reg_logic, apply_ite (BitVec.getLsbD · k), BitVec.getLsbD_zero, hfg]
  · simp only [State.advance_pc, State.logic, State.logicFlag_pc, State.setReg_pc]
  · simp [changesOnly, State.logic]

/-- Settles O27: each of the three acts bit by bit. -/
theorem logicWritesVxThenQuirkClearsVF : Obligations.LogicWritesVxThenQuirkClearsVF :=
  ⟨spells_row 10, spells_row 11, spells_row 12,
    fun s x y => ⟨_, rfl, logicEffect_logic (fun _ _ _ => BitVec.getLsbD_or) x y s⟩,
    fun s x y => ⟨_, rfl, logicEffect_logic (fun _ _ _ => BitVec.getLsbD_and) x y s⟩,
    fun s x y => ⟨_, rfl, logicEffect_logic (fun _ _ _ => BitVec.getLsbD_xor) x y s⟩⟩

/-! ### Addition and subtraction of registers -/

/-- Settles O28: the flag is the carry in numbers, and the sum of bytes is the sum modulo 256. -/
theorem addRegistersWrapsAndCarries : Obligations.AddRegistersWrapsAndCarries := by
  refine ⟨spells_row 13, fun s x y => ⟨_, rfl, fun r => ?_, rfl, exec_frame (i := .addReg x y) rfl⟩⟩
  simp only [State.reg_advance, State.reg_setWithFlag, apply_ite BitVec.toNat, toNat_flagByte_carry, BitVec.toNat_add]

/-- A difference written with its flag has the effect of R118 and R120. -/
theorem differenceEffect_setWithFlag (a b : Byte) (x : Reg) (s : State) :
    differenceEffect a b x s (s.setWithFlag x (a - b) (noBorrow a b)).advance := by
  refine ⟨fun r => ?_, rfl, ?_⟩
  · simp only [State.reg_advance, State.reg_setWithFlag, apply_ite BitVec.toNat, toNat_flagByte_noBorrow,
      toNat_sub_byte]
  · simp [changesOnly, State.setWithFlag]

/-- Settles O29: `SUBN` is `SUB` with minuend and subtrahend exchanged. -/
theorem subtractionsWrapAndFlagNoBorrow : Obligations.SubtractionsWrapAndFlagNoBorrow :=
  ⟨spells_row 14, spells_row 16,
    fun s x y => ⟨_, rfl, differenceEffect_setWithFlag (s.reg x) (s.reg y) x s⟩,
    fun s x y => ⟨_, rfl, differenceEffect_setWithFlag (s.reg y) (s.reg x) x s⟩⟩

/-! ### Shifts -/

/-- Settles O30: the flag is bit 0 in numbers, and the shift halves. -/
theorem shiftRightFlagsThenShifts : Obligations.ShiftRightFlagsThenShifts := by
  refine ⟨spells_row 15, ?_⟩
  rintro s x y src rfl
  refine ⟨_, rfl, fun r => ?_, rfl, exec_frame (i := .shr x y) rfl⟩
  simp only [State.reg_advance, shiftSource, State.reg_shift, apply_ite BitVec.toNat, toNat_shiftRight_one,
    toNat_flagByte_outRight]

/-- Settles O31: the flag is bit 7 in numbers, and the shift doubles modulo 256. -/
theorem shiftLeftFlagsThenShifts : Obligations.ShiftLeftFlagsThenShifts := by
  refine ⟨spells_row 17, ?_⟩
  rintro s x y src rfl
  refine ⟨_, rfl, fun r => ?_, rfl, exec_frame (i := .shl x y) rfl⟩
  simp only [State.reg_advance, shiftSource, State.reg_shift, apply_ite BitVec.toNat, toNat_shiftLeft_one,
    toNat_flagByte_outLeft]

end Sys2Proof.Machine
end

section
/-! Control flow (spec/41_control_flow.md R130 to R139): the outcomes of `CALL` and `RET`, the jump targets in numbers, the
skip by its condition, and the statement of each instruction. -/

namespace Sys2Proof.Machine

variable {s : State}

/-! ### Addresses in numbers -/

theorem toNat_zext16 (nnn : Addr12) : (zext16 nnn).toNat = nnn.toNat :=
  BitVec.toNat_setWidth_of_le (by decide)

theorem toNat_zextByte (b : Byte) : (zextByte b).toNat = b.toNat :=
  BitVec.toNat_setWidth_of_le (by decide)

/-- The sum of an immediate address and a byte passes 12 bits but not 16 (R138). -/
theorem toNat_zext16_add_zextByte (nnn : Addr12) (b : Byte) :
    (zext16 nnn + zextByte b).toNat = nnn.toNat + b.toNat := by
  have hn := nnn.isLt
  have hb := b.isLt
  rw [BitVec.toNat_add, toNat_zext16, toNat_zextByte]
  omega

/-! ### `RET` and `CALL`, by the depth of the stack -/

theorem exec_ret_of_pos (h : 0 < s.sp.val) : exec .ret s = .next (s.popPc h) := dif_pos h

theorem exec_ret_of_empty (h : s.sp.val = 0) :
    exec .ret s = .next (s.takeFault (encode .ret) .stackUnderflow) := dif_neg (by omega)

theorem exec_call_of_lt (nnn : Addr12) (h : s.sp.val < 16) :
    exec (.call nnn) s = .next ((s.push (s.pc + 2#16) h).setPc (zext16 nnn)) := dif_pos h

theorem exec_call_of_full (nnn : Addr12) (h : s.sp.val = 16) :
    exec (.call nnn) s = .next (s.takeFault (encode (.call nnn)) .stackOverflow) := dif_neg (by omega)

/-- An entry of the stack after a push: the top is new, every other entry is kept (R133). -/
theorem State.getElem_push_stack (w : Word) (h : s.sp.val < 16) (k : Fin 16) :
    (s.push w h).stack[k] = if k.val = s.sp.val then w else s.stack[k] := by
  simp only [State.push_stack, Fin.getElem_fin, Vector.getElem_set, eq_comm]

/-- A pop undoes the depth of a push and brings the pushed word to PC, wherever PC went in between (R139). -/
theorem State.popPc_setPc_push (w a : Word) (h : s.sp.val < 16) :
    ((s.push w h).setPc a).popPc (Nat.succ_pos _) = { s with pc := w, stack := (s.push w h).stack } := by
  have htop : (s.stack.set s.sp.val w)[s.sp.val] = w := Vector.getElem_set_self h
  simp only [State.popPc, State.setPc, State.push, Nat.add_sub_cancel, htop]

/-- Settles O33: the pop takes the top entry, and the raise records the word of `RET`. -/
theorem returnPopsOrUnderflows : Obligations.ReturnPopsOrUnderflows := by
  refine ⟨spells_row 1, fun s k hk => ?_, fun s hs => exec_ret_of_empty hs⟩
  have hpos : 0 < s.sp.val := by omega
  have htop : s.sp.val - 1 = k.val := by omega
  refine ⟨_, exec_ret_of_pos hpos, htop, ?_, ?_⟩
  · simp only [State.popPc_pc, htop, Fin.getElem_fin]
  · simp [changesOnly]

/-- Settles O34: the push writes the entry at SP and no other, and the raise records the word of `CALL`. -/
theorem callPushesOrOverflows : Obligations.CallPushesOrOverflows := by
  refine ⟨spells_row 3, fun s nnn hsp => ?_, fun s nnn hs => exec_call_of_full nnn hs⟩
  refine ⟨_, exec_call_of_lt nnn hsp, rfl, toNat_zext16 nnn, State.getElem_push_stack _ hsp, ?_⟩
  simp [changesOnly]

/-- Settles O35: the pop finds the word the push stored, and the push wrote above the entries in use. -/
theorem callThenReturnComesBack : Obligations.CallThenReturnComesBack := by
  intro s nnn hsp
  have hret := exec_ret_of_pos (s := (s.push (s.pc + 2#16) hsp).setPc (zext16 nnn)) (Nat.succ_pos _)
  rw [State.popPc_setPc_push] at hret
  refine ⟨_, _, exec_call_of_lt nnn hsp, hret, rfl, rfl, fun k hk => ?_, ?_⟩
  · rw [State.getElem_push_stack, if_neg hk.ne]
  · simp [changesOnly]

/-! ### Jumps -/

/-- Settles O36: the targets in numbers; the sum with V0 fits in 16 bits. -/
theorem jumpsSetPc : Obligations.JumpsSetPc :=
  ⟨spells_row 2, spells_row 20,
    fun _ nnn => ⟨_, rfl, toNat_zext16 nnn, exec_frame (i := .jp nnn) rfl⟩,
    fun s nnn => ⟨_, rfl, toNat_zext16_add_zextByte nnn (s.reg 0), exec_frame (i := .jpV0 nnn) rfl⟩⟩

/-! ### Skips -/

/-- PC after a skip, by the condition as a proposition (R130). -/
theorem State.pc_skipIf_of_iff (s : State) {c : Bool} {p : Prop} [Decidable p] (h : c = true ↔ p) :
    (s.skipIf c).pc = if p then s.pc + 4#16 else s.pc + 2#16 := by
  simp only [State.skipIf_pc, h]

/-- Settles O37: each instruction tests its condition, and its negation for `SNE`. -/
theorem registerSkipsAddFourOrTwo : Obligations.RegisterSkipsAddFourOrTwo :=
  ⟨spells_row 4, spells_row 5, spells_row 6, spells_row 18,
    fun s x kk => ⟨_, rfl, s.pc_skipIf_of_iff decide_eq_true_iff, exec_frame (i := .seImm x kk) rfl⟩,
    fun s x kk => ⟨_, rfl, s.pc_skipIf_of_iff not_decide_eq_true.to_iff, exec_frame (i := .sneImm x kk) rfl⟩,
    fun s x y => ⟨_, rfl, s.pc_skipIf_of_iff decide_eq_true_iff, exec_frame (i := .seReg x y) rfl⟩,
    fun s x y => ⟨_, rfl, s.pc_skipIf_of_iff not_decide_eq_true.to_iff, exec_frame (i := .sneReg x y) rfl⟩⟩

end Sys2Proof.Machine
end

section
/-! The index register (spec/42_memory_index.md R145 to R147): the low digit and the glyph address in numbers, and the
statement of each instruction. -/

namespace Sys2Proof.Machine

theorem toNat_and_0F (b : Byte) : (b &&& 0x0F#8).toNat = b.toNat % 16 :=
  Nat.and_two_pow_sub_one_eq_mod b.toNat 4

/-- The glyph of a digit lies at five times the digit, far below 2^16 (R147). -/
theorem toNat_glyphAddr (b : Byte) : (glyphAddr b).toNat = 5 * (b.toNat % 16) := by
  have hdigit : (zextByte (b &&& 0x0F#8)).toNat = b.toNat % 16 := by rw [toNat_zextByte, toNat_and_0F]
  rw [glyphAddr, BitVec.toNat_mul, hdigit, BitVec.toNat_ofNat]
  omega

/-- The sum of a word and a byte wraps modulo 65536 (R146). -/
theorem toNat_add_zextByte (w : Word) (b : Byte) : (w + zextByte b).toNat = (w.toNat + b.toNat) % 65536 := by
  rw [BitVec.toNat_add, toNat_zextByte]

/-- Settles O38: the new I of each instruction in numbers, and the frame. -/
theorem indexInstructionsSetI : Obligations.IndexInstructionsSetI :=
  ⟨spells_row 19, spells_row 29, spells_row 30,
    fun _ nnn => ⟨_, rfl, toNat_zext16 nnn, rfl, exec_frame (i := .ldI nnn) rfl⟩,
    fun s x => ⟨_, rfl, toNat_add_zextByte s.i (s.reg x), rfl, exec_frame (i := .addI x) rfl⟩,
    fun s x => ⟨_, rfl, toNat_glyphAddr (s.reg x), rfl, exec_frame (i := .ldF x) rfl⟩⟩

end Sys2Proof.Machine
end

section
/-! The display (spec/43_display.md R150 to R152): the report of a completed display instruction, the pixels a sprite
covers, one draw and two equal draws of it, and the statement of each instruction. -/

namespace Sys2Proof.Machine

variable {s t : State}

/-! ### The report -/

/-- A step that completes `CLS` or `DRW` reports a display change and no fault, whatever the pixels were (R216). -/
theorem stepReport_of_drawsDisplay {i : Instr} (hfetch : s.fetch = .run i) (hi : Instr.drawsDisplay i = true)
    (ht : t.faulted = false) : stepReport s t = { displayModified := true, fault := .none } := by
  simp only [stepReport, hfetch, hi, ht, State.faulted_eq_false.1 ht, Bool.not_false, Bool.and_self]

/-- The operation `step` replies with the report of its step (R217). -/
theorem State.apply_step (h : step s = .next t) : s.apply .step = .next (.live t, .stepped (stepReport s t)) := by
  simp only [State.apply, h]

/-- The report of a completed display instruction, and the reply with it (R94 stage 4, R217). -/
theorem reply_of_drawsDisplay {i : Instr} (hfetch : s.fetch = .run i) (hi : Instr.drawsDisplay i = true)
    (hstep : step s = .next t) (ht : t.faulted = false) :
    stepReport s t = { displayModified := true, fault := .none } ∧
      s.apply .step = .next (.live t, .stepped { displayModified := true, fault := .none }) := by
  have hreport := stepReport_of_drawsDisplay hfetch hi ht
  exact ⟨hreport, hreport ▸ State.apply_step hstep⟩

/-- An instruction that cannot raise, run by a step, leaves the block not faulted. -/
theorem faulted_of_step_of_fetch_eq_run {i : Instr} (hfetch : s.fetch = .run i) (hi : .fault ∉ mayWrite i)
    (hstep : step s = .next t) : t.faulted = false := by
  have hexec : exec i s = .next t := step_of_fetch_eq_run hfetch ▸ hstep
  obtain ⟨hf, -⟩ := State.fetch_eq_run.1 hfetch
  rwa [State.faulted_eq_false, exec_latch hexec hi, ← State.faulted_eq_false]

/-! ### `CLS` -/

/-- Settles O39: the blank framebuffer has no pixel on, and `CLS` cannot raise. -/
theorem clearTurnsEveryPixelOff : Obligations.ClearTurnsEveryPixelOff := by
  refine ⟨spells_row 0, fun s => ⟨_, rfl, fun px py _ _ => Framebuffer.pixel_blank px py, rfl,
    exec_frame (i := .cls) rfl⟩, fun s t hfetch hstep => ?_⟩
  exact reply_of_drawsDisplay hfetch rfl hstep (faulted_of_step_of_fetch_eq_run hfetch (by decide) hstep)

/-! ### The pixels under a sprite -/

/-- The pixels under the 1 bits of the sprite that `DRW Vx, Vy, n` draws from state s (R152). -/
def State.sprite (s : State) (x y : Reg) (n : Nibble) : Nat → Nat → Prop :=
  covers s.mem s.i.toNat n.toNat ((s.reg x).toNat % 64) ((s.reg y).toNat % 32)

/-- The draw of `DRW` inverts the pixels under its sprite and collides when one of them was on. -/
theorem State.drawing_drawn (s : State) (x y : Reg) (n : Nibble) :
    Drawn s.fb (s.sprite x y n) (s.drawing x y n) :=
  drawSprite_drawn s.mem s.addrI n.toNat (s.column x) (s.row y) s.fb (n.isLt.trans (by decide))

/-- A byte is not 0 exactly when one of its eight columns, bit 7 leftmost, is a 1 bit. -/
theorem ne_zero_iff_exists_column {b : Byte} : b ≠ 0#8 ↔ ∃ c : Nat, c < 8 ∧ b.getLsbD (7 - c) = true := by
  constructor
  · intro hb
    by_contra hno
    refine hb (BitVec.eq_of_getLsbD_eq fun k hk => ?_)
    have hcol : b.getLsbD (7 - (7 - k)) ≠ true := fun h => hno ⟨7 - k, by omega, h⟩
    rw [show 7 - (7 - k) = k by omega] at hcol
    rw [BitVec.getLsbD_zero, Bool.eq_false_iff]
    exact hcol
  · rintro ⟨c, -, hc⟩ rfl
    rw [BitVec.getLsbD_zero] at hc
    exact Bool.false_ne_true hc

/-- A sprite covers some pixel exactly when one of its bytes is not 0: with wrap-around no 1 bit is lost (R150). -/
theorem exists_covers_iff (m : Memory) (a n x0 y0 : Nat) :
    (∃ px py : Nat, px < 64 ∧ py < 32 ∧ covers m a n x0 y0 px py) ↔ ∃ r : Nat, r < n ∧ m.read (a + r) ≠ 0#8 := by
  constructor
  · rintro ⟨px, py, -, -, r, c, hr, hc, hbit, -⟩
    exact ⟨r, hr, ne_zero_iff_exists_column.2 ⟨c, hc, hbit⟩⟩
  · rintro ⟨r, hr, hne⟩
    obtain ⟨c, hc, hbit⟩ := ne_zero_iff_exists_column.1 hne
    exact ⟨_, _, Nat.mod_lt (x0 + c) (by decide), Nat.mod_lt (y0 + r) (by decide), r, c, hr, hc, hbit, rfl, rfl⟩

/-! ### One draw -/

/-- The state after `DRW Vx, Vy, n` completes from state s: VF is written after the draw (R152). -/
def State.afterDraw (s : State) (x y : Reg) (n : Nibble) : State :=
  ((s.setFb (s.drawing x y n).fb).setFlag (s.drawing x y n).collision).advance

@[simp] theorem State.afterDraw_fb (s : State) (x y : Reg) (n : Nibble) :
    (s.afterDraw x y n).fb = (s.drawing x y n).fb := rfl

@[simp] theorem State.afterDraw_pc (s : State) (x y : Reg) (n : Nibble) :
    (s.afterDraw x y n).pc = s.pc + 2#16 := rfl

@[simp] theorem State.reg_afterDraw (s : State) (x y : Reg) (n : Nibble) (r : Reg) :
    (s.afterDraw x y n).reg r = if r = VF then flagByte (s.drawing x y n).collision else s.reg r := by
  simp only [State.afterDraw, State.reg_advance, State.reg_setFlag, State.reg_setFb]

theorem State.changesOnly_afterDraw (s : State) (x y : Reg) (n : Nibble) :
    changesOnly [.regs, .fb, .pc] s (s.afterDraw x y n) := by
  simp [changesOnly, State.afterDraw]

theorem exec_drw_of_inRange {n : Nibble} (x y : Reg) (h : n = 0#4 ∨ s.i.toNat + n.toNat - 1 < memSize) :
    exec (.drw x y n) s = .next (s.afterDraw x y n) := by
  have hc : checkRange s.i n.toNat = none := checkRange_eq_none.2 (h.imp_left (congrArg BitVec.toNat))
  simp only [exec, execDrw, hc, State.afterDraw]

theorem exec_drw_of_outOfRange {n : Nibble} (x y : Reg) (hn : n ≠ 0#4) (h : memSize ≤ s.i.toNat + n.toNat - 1) :
    exec (.drw x y n) s = .next (s.outOfBoundsAt (encode (.drw x y n)) s.i) := by
  have hn' : n.toNat ≠ 0 := fun h0 => hn (BitVec.eq_of_toNat_eq h0)
  have hc := checkRange_eq_some.2 ⟨hn', h, rfl⟩
  simp only [exec, execDrw, hc]
  rfl

theorem flagByte_eq_zero_or_one (c : Bool) : flagByte c = 0#8 ∨ flagByte c = 1#8 := by
  cases c <;> decide

theorem flagByte_eq_one_iff {c : Bool} : flagByte c = 1#8 ↔ c = true := by
  cases c <;> decide

/-- Settles O40: the draw inverts the pixels under its sprite, and the flag it leaves is its collision. -/
theorem drawInvertsCoveredPixelsAndFlagsCollision : Obligations.DrawInvertsCoveredPixelsAndFlagsCollision := by
  refine ⟨spells_row 22, fun s x y n h => ?_, fun s x y n => exec_drw_of_outOfRange x y,
    fun s t x y n hfetch => reply_of_drawsDisplay hfetch rfl⟩
  obtain ⟨hpixels, hcollision⟩ := s.drawing_drawn x y n
  have hflag : (s.afterDraw x y n).reg VF = flagByte (s.drawing x y n).collision := by
    rw [State.reg_afterDraw, if_pos rfl]
  refine ⟨_, exec_drw_of_inRange x y h, hpixels, ?_, ?_, fun r hr => ?_, s.afterDraw_pc x y n,
    s.changesOnly_afterDraw x y n⟩
  · rw [hflag]
    exact flagByte_eq_zero_or_one _
  · rw [hflag, flagByte_eq_one_iff]
    exact hcollision
  · rw [State.reg_afterDraw, if_neg hr]

/-! ### Two equal draws -/

/-- A set of pixels inverted twice is as it was. -/
theorem Drawn.fb_of_drawn {f : Framebuffer} {P : Nat → Nat → Prop} {d e : Drawing} (hd : Drawn f P d)
    (he : Drawn d.fb P e) : e.fb = f := by
  refine Framebuffer.ext_pixel fun x y hx hy => Bool.eq_iff_iff.2 ?_
  rw [he.1 x y hx hy, hd.1 x y hx hy]
  tauto

/-- On a framebuffer with every pixel off a draw does not collide. -/
theorem Drawn.collision_of_off {f : Framebuffer} {P : Nat → Nat → Prop} {d : Drawing} (hd : Drawn f P d)
    (hoff : ∀ x y : Nat, x < 64 → y < 32 → f.pixel x y = false) : d.collision = false := by
  rw [Bool.eq_false_iff, ne_eq, hd.2]
  rintro ⟨x, y, hx, hy, -, hon⟩
  exact Bool.false_ne_true ((hoff x y hx hy).symm.trans hon)

/-- After a draw on a framebuffer with every pixel off, the same draw collides exactly when it covers some pixel. -/
theorem Drawn.collision_of_drawn_of_off {f : Framebuffer} {P : Nat → Nat → Prop} {d e : Drawing} (hd : Drawn f P d)
    (he : Drawn d.fb P e) (hoff : ∀ x y : Nat, x < 64 → y < 32 → f.pixel x y = false) :
    e.collision = true ↔ ∃ x y : Nat, x < 64 ∧ y < 32 ∧ P x y := by
  have hon {x y : Nat} (hx : x < 64) (hy : y < 32) : d.fb.pixel x y = true ↔ P x y := by
    rw [hd.1 x y hx hy, hoff x y hx hy]
    tauto
  rw [he.2]
  constructor
  · rintro ⟨x, y, hx, hy, hP, -⟩
    exact ⟨x, y, hx, hy, hP⟩
  · rintro ⟨x, y, hx, hy, hP⟩
    exact ⟨x, y, hx, hy, hP, (hon hx hy).2 hP⟩

/-- A draw at registers other than VF leaves what an equal draw reads: memory, I and the two coordinates. -/
theorem State.sprite_afterDraw (s : State) {x y : Reg} (n : Nibble) (hx : x ≠ VF) (hy : y ≠ VF) :
    (s.afterDraw x y n).sprite x y n = s.sprite x y n := by
  rw [State.sprite, State.reg_afterDraw, State.reg_afterDraw, if_neg hx, if_neg hy]
  rfl

/-- Settles O41: both draws invert the same pixels, so the second finds on just those the first turned on. -/
theorem drawingTwiceRestoresTheFramebuffer : Obligations.DrawingTwiceRestoresTheFramebuffer := by
  intro s x y n hx hy h
  have hfirst := s.drawing_drawn x y n
  have hsecond := (s.afterDraw x y n).drawing_drawn x y n
  rw [State.sprite_afterDraw s n hx hy, State.afterDraw_fb] at hsecond
  refine ⟨_, _, exec_drw_of_inRange x y h, exec_drw_of_inRange x y h, hfirst.fb_of_drawn hsecond,
    fun hoff => ⟨?_, ?_⟩⟩
  · rw [State.reg_afterDraw, if_pos rfl, hfirst.collision_of_off hoff]
    rfl
  · rw [State.reg_afterDraw, if_pos rfl, flagByte_eq_one_iff, hfirst.collision_of_drawn_of_off hsecond hoff]
    exact exists_covers_iff ..

end Sys2Proof.Machine
end

section
/-! The timers (spec/44_timer.md R155 to R157): the delay timer after any number of ticks, the sound output as a condition
on ST, and the statement of the three moves. -/

namespace Sys2Proof.Machine

/-- The delay timer after k ticks in numbers: minus k, not below 0 (R156, R213). -/
theorem State.toNat_dt_ticks (s : State) (k : Nat) : (s.ticks k).dt.toNat = s.dt.toNat - k := by
  induction k generalizing s with
  | zero => rfl
  | succ k ih =>
    calc (s.tick.ticks k).dt.toNat
      _ = s.tick.dt.toNat - k := ih s.tick
      _ = s.dt.toNat - 1 - k := by rw [State.tick_dt, toNat_countDown]
      _ = s.dt.toNat - (k + 1) := by rw [Nat.sub_sub, Nat.add_comm]

/-- The sound output is a test of ST alone (R214). -/
theorem State.soundActive_eq_true_iff (s : State) : s.soundActive = true ↔ s.st ≠ 0#8 :=
  not_decide_eq_true.to_iff

/-- Settles O42: each move writes one part from another; the countdown and the sound output follow from the part written. -/
theorem timerMovesCopyTheByte : Obligations.TimerMovesCopyTheByte :=
  ⟨spells_row 25, spells_row 27, spells_row 28,
    fun s x => ⟨_, rfl, fun r => s.reg_setReg x r s.dt, rfl, exec_frame (i := .ldVxDt x) rfl⟩,
    fun _ x => ⟨_, rfl, rfl, rfl, exec_frame (i := .ldDtVx x) rfl, State.toNat_dt_ticks _⟩,
    fun _ x => ⟨_, rfl, rfl, rfl, exec_frame (i := .ldStVx x) rfl, State.soundActive_eq_true_iff _⟩⟩

end Sys2Proof.Machine
end

section
/-! The input instructions (spec/45_input.md R160 to R162): the key a register selects, what the choice of a pressed key
answers, and the statement of each instruction. -/

namespace Sys2Proof.Machine

variable {s : State}

/-! ### The skips -/

/-- The skips test the key of the register's low digit (R160, R161). -/
theorem State.keyDown_keyIndex (s : State) (b : Byte) :
    s.keyDown (keyIndex b) = s.keys.getLsbD (b.toNat % 16) := by
  rw [State.keyDown, keyIndex, toNat_and_0F]

/-- Settles O45: `SKP` tests the key of Vx's low digit, and `SKNP` its negation. -/
theorem keySkipsTestTheLatch : Obligations.KeySkipsTestTheLatch := by
  refine ⟨spells_row 23, spells_row 24,
    fun s x => ⟨_, rfl, s.pc_skipIf_of_iff ?_, exec_frame (i := .skp x) rfl⟩,
    fun s x => ⟨_, rfl, s.pc_skipIf_of_iff ?_, exec_frame (i := .sknp x) rfl⟩⟩
  · rw [State.keyDown_keyIndex]
  · rw [State.keyDown_keyIndex, Bool.not_eq_true']

/-! ### The choice of a key -/

theorem lowestKey_eq_none {keys : BitVec 16} : lowestKey keys = none ↔ ∀ k : Key, keys.getLsbD k.val = false := by
  simp [lowestKey]

/-- The default choice is a pressed key, and no smaller key is pressed (R162). -/
theorem lowestKey_eq_some {keys : BitVec 16} {k : Key} (h : lowestKey keys = some k) :
    keys.getLsbD k.val = true ∧ ∀ j : Key, keys.getLsbD j.val = true → k ≤ j := by
  obtain ⟨hk, n, hn, rfl, hbelow⟩ := List.find?_eq_some_iff_getElem.1 h
  refine ⟨hk, fun j hj => Fin.le_def.2 (Nat.le_of_not_lt fun hlt => ?_)⟩
  have hoff := hbelow j.val (by simpa only [List.getElem_finRange, Fin.val_cast] using hlt)
  simp only [List.getElem_finRange, Fin.val_cast, hj, Bool.not_true, Bool.false_eq_true] at hoff

/-- The choice is the lowest pressed key or, under the other `KEY_PICK`, the free key where that is pressed (R162). -/
theorem pickKey_cases (c : Config) (keys : BitVec 16) :
    pickKey c keys = lowestKey keys ∨
    (c.keyPick ≠ .lowest ∧ keys.getLsbD (Config.otherKeyPick keys).val = true ∧
      pickKey c keys = some (Config.otherKeyPick keys)) := by
  unfold pickKey
  split
  case h_1 => exact .inl rfl
  case h_2 hc =>
    split
    case isTrue hdown => exact .inr ⟨by simp [hc], hdown, rfl⟩
    case isFalse => exact .inl rfl

theorem pickKey_of_none_pressed (c : Config) {keys : BitVec 16} (h : ∀ k : Key, keys.getLsbD k.val = false) :
    pickKey c keys = none := by
  obtain hpick | ⟨-, hdown, -⟩ := pickKey_cases c keys
  · rw [hpick, lowestKey_eq_none.2 h]
  · exact absurd ((h _).symm.trans hdown) Bool.false_ne_true

/-- With some key pressed the choice is a pressed key, under the default `KEY_PICK` the smallest (R162). -/
theorem exists_pickKey_of_pressed (c : Config) {keys : BitVec 16} {j : Key} (hj : keys.getLsbD j.val = true) :
    ∃ k : Key, pickKey c keys = some k ∧ keys.getLsbD k.val = true ∧ (c.keyPick = .lowest → k ≤ j) := by
  obtain hpick | ⟨hc, hdown, hpick⟩ := pickKey_cases c keys
  · have hsome : lowestKey keys ≠ none := fun hnone =>
      Bool.false_ne_true ((lowestKey_eq_none.1 hnone j).symm.trans hj)
    obtain ⟨k, hk⟩ := Option.ne_none_iff_exists'.1 hsome
    obtain ⟨hdown, hleast⟩ := lowestKey_eq_some hk
    exact ⟨k, hpick.trans hk, hdown, fun _ => hleast j hj⟩
  · exact ⟨_, hpick, hdown, fun hlow => absurd hlow hc⟩

/-! ### `LD Vx, K` -/

theorem exec_ldVxK_of_none (x : Reg) (h : pickKey s.cfg s.keys = none) : exec (.ldVxK x) s = .next s := by
  simp only [exec, execLdVxK, h]

theorem exec_ldVxK_of_some (x : Reg) {k : Key} (h : pickKey s.cfg s.keys = some k) :
    exec (.ldVxK x) s = .next (s.setReg x (BitVec.ofNat 8 k.val)).advance := by
  simp only [exec, execLdVxK, h]

/-- A key index fits in a register (R29, R162). -/
theorem toNat_ofNat_key (k : Key) : (BitVec.ofNat 8 k.val).toNat = k.val :=
  Nat.mod_eq_of_lt (k.isLt.trans (by decide))

/-- Settles O46: the instruction waits exactly while there is no key to choose, and the chosen key is a pressed one. -/
theorem keyWaitEndsWithAPressedKey : Obligations.KeyWaitEndsWithAPressedKey := by
  refine ⟨spells_row 26, fun s x h => exec_ldVxK_of_none x (pickKey_of_none_pressed s.cfg h), fun s x j hj => ?_⟩
  obtain ⟨k, hpick, hdown, hleast⟩ := exists_pickKey_of_pressed s.cfg hj
  have hexec := exec_ldVxK_of_some x hpick
  refine ⟨_, k, hexec, hdown, hleast, fun r => ?_, rfl, exec_frame hexec⟩
  rw [State.reg_advance, State.reg_setReg, apply_ite BitVec.toNat, toNat_ofNat_key]

end Sys2Proof.Machine
end

section
/-! BCD and the register arrays (spec/46_bcd_array.md R164 to R167): the two outcomes of the range check, memory and the
registers after a completed transfer, and the statement of each instruction. -/

namespace Sys2Proof.Machine

variable {s : State} {m : Memory} {a : Nat} {bs : List Byte} {x : Reg}

/-! ### The range check of n + 1 bytes, by the last address -/

theorem checkRange_of_last_lt {w : Word} {n : Nat} (h : w.toNat + n < memSize) : checkRange w (n + 1) = none :=
  checkRange_eq_none.2 (.inr h)

theorem checkRange_of_le_last {w : Word} {n : Nat} (h : memSize ≤ w.toNat + n) :
    checkRange w (n + 1) = some (.outOfBounds (BitVec.ofNat 16 (max w.toNat memSize))) :=
  checkRange_eq_some.2 ⟨Nat.succ_ne_zero n, h, rfl⟩

/-! ### Memory and the registers after a transfer -/

theorem Memory.read_writeBytes_add (hm : m.wf = true) (ha : a + bs.length ≤ memSize) {k : Nat} (hk : k < bs.length) :
    (m.writeBytes a bs).read (a + k) = bs[k] := by
  rw [Memory.read_writeBytes ha hm, if_pos (by omega), Nat.add_sub_cancel_left, List.getD_eq_getElem _ _ hk]

theorem Memory.read_writeBytes_outside (hm : m.wf = true) (ha : a + bs.length ≤ memSize) {a' : Nat}
    (h : a' < a ∨ a + bs.length ≤ a') : (m.writeBytes a bs).read a' = m.read a' := by
  rw [Memory.read_writeBytes ha hm, if_neg (by omega)]

/-- A register after an array load: up to Vx the byte at its place, above Vx what it held (R167). -/
theorem State.reg_setRegs_readBytes (s : State) (m : Memory) (a : Nat) (x r : Reg) :
    (s.setRegs (m.readBytes a (x.val + 1))).reg r = if r ≤ x then m.read (a + r.val) else s.reg r := by
  split
  case isTrue hr =>
    have hlt : r.val < x.val + 1 := Nat.lt_succ_of_le hr
    rw [State.reg_setRegs, Memory.length_readBytes, if_pos hlt, List.getD_eq_getElem?_getD,
      Memory.getElem?_readBytes, if_pos hlt, Option.getD_some]
  case isFalse hr => exact reg_setRegs_readBytes_of_lt s m a (not_le.1 hr)

/-- I after an array transfer in numbers (R166, R167). -/
theorem State.toNat_i_stepI (s : State) (x : Reg) :
    (s.stepI x).i.toNat =
      if s.cfg.quirkLoadstoreIncI then (s.i.toNat + x.val + 1) % 65536 else s.i.toNat := by
  rw [State.stepI_i, apply_ite BitVec.toNat, BitVec.toNat_add, BitVec.toNat_ofNat, Nat.add_mod_mod, Nat.add_assoc]

/-! ### `LD B, Vx` -/

theorem exec_ldB_of_inRange (hi : s.i.toNat + 2 < memSize) :
    exec (.ldB x) s = .next (s.setMem (s.mem.writeBytes s.addrI (bcdDigits (s.reg x)))).advance := by
  simp only [exec, execLdB, checkRange_of_last_lt hi]

theorem exec_ldB_of_outOfRange (hi : memSize ≤ s.i.toNat + 2) :
    exec (.ldB x) s = .next (s.outOfBoundsAt (encode (.ldB x)) s.i) := by
  simp only [exec, execLdB, checkRange_of_le_last hi]
  rfl

/-- Digit k, a number no larger than the byte it is taken from, is stored whole (R165). -/
theorem toNat_read_bcdDigits {b : Byte} {k d : Nat} (hm : m.wf = true) (ha : a + 3 ≤ memSize) (hk : k < 3)
    (hdigit : (bcdDigits b)[k]'hk = BitVec.ofNat 8 d) (hd : d ≤ b.toNat) :
    ((m.writeBytes a (bcdDigits b)).read (a + k)).toNat = d := by
  rw [Memory.read_writeBytes_add hm ha hk, hdigit]
  exact Nat.mod_eq_of_lt (hd.trans_lt b.isLt)

/-- Settles O48: each of the three digits is at its place, and the store reaches no other address. -/
theorem bcdStoreWritesThreeDigits : Obligations.BcdStoreWritesThreeDigits := by
  refine ⟨spells_row 31, fun s x hwf hi => ?_, fun s x => exec_ldB_of_outOfRange⟩
  have hunits : (s.reg x).toNat % 10 ≤ (s.reg x).toNat := Nat.mod_le ..
  have htens : (s.reg x).toNat / 10 % 10 ≤ (s.reg x).toNat := (Nat.mod_le ..).trans (Nat.div_le_self ..)
  have hhundreds : (s.reg x).toNat / 100 ≤ (s.reg x).toNat := Nat.div_le_self ..
  exact ⟨_, exec_ldB_of_inRange hi,
    toNat_read_bcdDigits hwf hi (k := 0) (by decide) rfl hhundreds,
    toNat_read_bcdDigits hwf hi (k := 1) (by decide) rfl htens,
    toNat_read_bcdDigits hwf hi (k := 2) (by decide) rfl hunits,
    fun _ ha => Memory.read_writeBytes_outside hwf hi ha, rfl, by simp [changesOnly]⟩

/-! ### `LD [I], Vx` and `LD Vx, [I]` -/

theorem exec_storeRegs_of_outOfRange (hi : memSize ≤ s.i.toNat + x.val) :
    exec (.storeRegs x) s = .next (s.outOfBoundsAt (encode (.storeRegs x)) s.i) := by
  simp only [exec, execStoreRegs, checkRange_of_le_last hi]
  rfl

theorem exec_loadRegs_of_inRange (hi : s.i.toNat + x.val < memSize) :
    exec (.loadRegs x) s = .next ((s.setRegs (s.mem.readBytes s.addrI (x.val + 1))).stepI x).advance := by
  simp only [exec, execLoadRegs, checkRange_of_last_lt hi]

theorem exec_loadRegs_of_outOfRange (hi : memSize ≤ s.i.toNat + x.val) :
    exec (.loadRegs x) s = .next (s.outOfBoundsAt (encode (.loadRegs x)) s.i) := by
  simp only [exec, execLoadRegs, checkRange_of_le_last hi]
  rfl

/-- Settles O49: the stored bytes are V0 to Vx, and the store reaches no other address. -/
theorem arrayStoreWritesTheRange : Obligations.ArrayStoreWritesTheRange := by
  refine ⟨spells_row 32, fun s x hwf hi => ?_, fun s x => exec_storeRegs_of_outOfRange⟩
  have hend : s.addrI + (s.regsTo x).length ≤ memSize := by rw [State.length_regsTo]; exact hi
  refine ⟨_, exec_storeRegs_of_inRange hi, fun k hk => ?_, fun a ha => ?_, State.toNat_i_stepI _ x, ?_,
    by simp [changesOnly]⟩
  · rw [State.advance_mem, State.stepI_mem, State.setMem_mem, read_writeBytes_regsTo hwf hi hk]
  · rw [State.advance_mem, State.stepI_mem, State.setMem_mem,
      Memory.read_writeBytes_outside hwf hend (by rw [State.length_regsTo]; omega)]
  · rw [State.advance_pc, State.stepI_pc, State.setMem_pc]

/-- Settles O50: each register up to Vx takes the byte at its place. -/
theorem arrayLoadReadsTheRange : Obligations.ArrayLoadReadsTheRange := by
  refine ⟨spells_row 33, fun s x hi => ?_, fun s x => exec_loadRegs_of_outOfRange⟩
  refine ⟨_, exec_loadRegs_of_inRange hi, fun r => ?_, State.toNat_i_stepI _ x, ?_, by simp [changesOnly]⟩
  · rw [State.reg_advance, State.reg_stepI, State.reg_setRegs_readBytes, State.addrI]
  · rw [State.advance_pc, State.stepI_pc, State.setRegs_pc]

/-- Settles O51: the load reads, at the place of each register, the byte that the store left there (O49, O50). -/
theorem arrayLoadUndoesArrayStore : Obligations.ArrayLoadUndoesArrayStore := by
  intro s x v hwf hi
  obtain ⟨-, hstore, -⟩ := arrayStoreWritesTheRange
  obtain ⟨-, hload, -⟩ := arrayLoadReadsTheRange
  obtain ⟨t, ht, hstored, -⟩ := hstore s x hwf hi
  obtain ⟨u, hu, hloaded, -⟩ := hload { t with v := v, i := s.i } x hi
  refine ⟨t, u, ht, hu, fun r hr => ?_, fun r hr => ?_⟩
  · rw [hloaded, if_pos hr]
    exact hstored r hr
  · rw [hloaded, if_neg (not_le.2 hr)]
    rfl

end Sys2Proof.Machine
end

section
/-! What raises and what a raise leaves (spec/60_exceptions.md R200 to R209): the fault of an instruction as a function of
the state it is executed in, fault entry by a step, the halted block, and the report. -/

namespace Sys2Proof.Machine

variable {s t : State} {i : Instr}

/-! ### Faults, causes and recorded addresses -/

/-- Only `OutOfBounds` carries an address (R31). -/
theorem Fault.addr_of_cause_ne {f : Fault} (h : f.cause ≠ .outOfBounds) : f.addr = 0#16 := by
  cases f with
  | outOfBounds a => exact absurd rfl h
  | stackOverflow | stackUnderflow | unknownOpcode => rfl

/-- The lowest address out of range fits in the latch (R201). -/
theorem toNat_ofNat_max_memSize (a : Word) : (BitVec.ofNat 16 (max a.toNat memSize)).toNat = max a.toNat memSize :=
  Nat.mod_eq_of_lt (max_lt a.isLt (by decide))

/-! ### The fault of an instruction -/

/-- The fault an instruction raises where it is executed in `s`, none where it completes (R207). -/
def State.raisedBy (s : State) : Instr → Option Fault
  | .ret => if s.sp.val = 0 then some .stackUnderflow else none
  | .call _ => if s.sp.val = 16 then some .stackOverflow else none
  | .drw _ _ n => checkRange s.i n.toNat
  | .ldB _ => checkRange s.i 3
  | .storeRegs x | .loadRegs x => checkRange s.i (x.val + 1)
  | _ => none

/-- An instruction that raises takes its fault and does nothing else; one that raises none keeps the latch (R208). -/
theorem exec_raisedBy_cases (h : exec i s = .next t) :
    (s.raisedBy i = none ∧ t.fault = s.fault) ∨ ∃ f, s.raisedBy i = some f ∧ t = s.takeFault (encode i) f := by
  cases i
  case ret =>
    obtain ⟨hsp, rfl⟩ | ⟨hsp, rfl⟩ := exec_ret_cases h
    · exact .inr ⟨_, if_pos hsp, rfl⟩
    · exact .inl ⟨if_neg hsp.ne', rfl⟩
  case call =>
    obtain ⟨hsp, rfl⟩ | ⟨hsp, rfl⟩ := exec_call_cases h
    · exact .inr ⟨_, if_pos hsp, rfl⟩
    · exact .inl ⟨if_neg hsp.ne, rfl⟩
  case drw =>
    obtain ⟨f, hc, rfl⟩ | ⟨hc, rfl⟩ := exec_drw_cases h
    · exact .inr ⟨f, hc, rfl⟩
    · exact .inl ⟨hc, rfl⟩
  case ldB =>
    obtain ⟨f, hc, rfl⟩ | ⟨hc, rfl⟩ := exec_ldB_cases h
    · exact .inr ⟨f, hc, rfl⟩
    · exact .inl ⟨hc, rfl⟩
  case storeRegs x =>
    obtain ⟨f, hc, rfl⟩ | ⟨hc, rfl⟩ := exec_storeRegs_cases h
    · exact .inr ⟨f, hc, rfl⟩
    · exact .inl ⟨hc, State.stepI_fault _ x⟩
  case loadRegs x =>
    obtain ⟨f, hc, rfl⟩ | ⟨hc, rfl⟩ := exec_loadRegs_cases h
    · exact .inr ⟨f, hc, rfl⟩
    · exact .inl ⟨hc, State.stepI_fault _ x⟩
  all_goals exact .inl ⟨rfl, exec_latch h (by simp [mayWrite])⟩

/-- One of the instructions that access memory at I would access an address out of range (R201, R207). -/
def State.accessOutOfRange (s : State) (i : Instr) : Prop :=
  (∃ x y n, i = .drw x y n ∧ n ≠ 0#4 ∧ memSize ≤ s.i.toNat + n.toNat - 1) ∨
  (∃ x, i = .ldB x ∧ memSize ≤ s.i.toNat + 2) ∨
  (∃ x, (i = .storeRegs x ∨ i = .loadRegs x) ∧ memSize ≤ s.i.toNat + x.val)

/-- Which instruction raises which fault, and where (R201 to R203, R207). -/
theorem State.raisedBy_eq_some {f : Fault} : s.raisedBy i = some f ↔
    (f = .stackOverflow ∧ s.sp.val = 16 ∧ ∃ nnn, i = .call nnn) ∨
    (f = .stackUnderflow ∧ s.sp.val = 0 ∧ i = .ret) ∨
    (f = .outOfBounds (BitVec.ofNat 16 (max s.i.toNat memSize)) ∧ s.accessOutOfRange i) := by
  unfold State.accessOutOfRange
  cases i
  case call | ret => simp [State.raisedBy, and_comm, eq_comm (b := f)]
  case drw x y n =>
    have hn : n.toNat ≠ 0 ↔ n ≠ 0#4 := not_congr (BitVec.toNat_inj (y := 0#4))
    refine (checkRange_eq_some.trans (and_congr_left' hn)).trans ?_
    simp [and_assoc, and_comm]
  case ldB | storeRegs | loadRegs =>
    refine checkRange_eq_some.trans ?_
    simp [and_comm]
  all_goals exact iff_of_false nofun (by simp)

/-- The cause a block not faulted holds in its latch after an instruction is that of the fault raised (R207). -/
theorem exec_cause_iff (hf : s.faulted = false) (h : exec i s = .next t) {c : FaultCause} (hc : c ≠ .none) :
    t.fault.cause = c ↔ ∃ f, s.raisedBy i = some f ∧ f.cause = c := by
  obtain ⟨hnone, hkept⟩ | ⟨f, hsome, rfl⟩ := exec_raisedBy_cases h
  · rw [hnone, hkept, State.faulted_eq_false.1 hf]
    exact iff_of_false hc.symm nofun
  · simp [hsome]

/-- `OutOfBounds` of an instruction is recorded with the lowest address of its access from I that is out of range (R201). -/
theorem State.toNat_addr_of_raisedBy {f : Fault} (h : s.raisedBy i = some f) (hf : f.cause = .outOfBounds) :
    f.addr.toNat = max s.i.toNat memSize := by
  obtain ⟨rfl, -⟩ | ⟨rfl, -⟩ | ⟨rfl, -⟩ := State.raisedBy_eq_some.1 h
  · cases hf
  · cases hf
  · exact toNat_ofNat_max_memSize s.i

/-- Settles O12: cause by cause, the faults of that cause among those `State.raisedBy_eq_some` lists. -/
theorem onlyTheseInstructionsRaise : Obligations.OnlyTheseInstructionsRaise := by
  intro i s t hf h
  have hcause (c : FaultCause) (hc : c ≠ .none) := exec_cause_iff hf h hc
  refine ⟨(hcause .stackOverflow nofun).trans ?_, (hcause .stackUnderflow nofun).trans ?_,
    (hcause .outOfBounds nofun).trans ?_, (hcause .unknownOpcode nofun).not.2 ?_⟩
  all_goals simp [State.raisedBy_eq_some, or_and_right, exists_or, Fault.cause, State.accessOutOfRange]

/-! ### Fault entry by a step -/

/-- The word a raising step records: the word at PC, or 0 where PC is out of range and none was fetched (R208). -/
def State.fetchedWord (s : State) : Word := if s.pc.toNat + 1 < memSize then s.wordAtPc else 0#16

/-- The address of the access a raising step makes last: I of an instruction, or PC where the fetch raises (R201). -/
def State.accessBase (s : State) : Nat := if s.pc.toNat + 1 < memSize then s.i.toNat else s.pc.toNat

/-- A step that latches a fault is fault entry and nothing else, whichever stage raises (R207, R208). -/
theorem step_eq_takeFault (hf : s.faulted = false) (h : step s = .next t) (ht : t.faulted = true) :
    ∃ f, t = s.takeFault s.fetchedWord f ∧ (f.cause = .outOfBounds → f.addr.toNat = max s.accessBase memSize) := by
  cases hfetch : s.fetch with
  | halted => exact absurd (State.fetch_eq_halted.1 hfetch) (by simp [hf])
  | raised op f =>
    cases h.symm.trans (step_of_fetch_eq_raised hfetch)
    obtain ⟨-, ⟨hpc, rfl, rfl⟩ | ⟨hpc, -, rfl, rfl⟩⟩ := State.fetch_eq_raised.1 hfetch
    · rw [State.fetchedWord, State.accessBase, if_neg hpc.not_gt, if_neg hpc.not_gt]
      exact ⟨_, rfl, fun _ => toNat_ofNat_max_memSize s.pc⟩
    · rw [State.fetchedWord, if_pos hpc]
      exact ⟨_, rfl, nofun⟩
  | run i =>
    obtain ⟨-, hpc, hdec⟩ := State.fetch_eq_run.1 hfetch
    rw [step_of_fetch_eq_run hfetch] at h
    obtain ⟨-, hkept⟩ | ⟨f, hraised, rfl⟩ := exec_raisedBy_cases h
    · exact absurd (hkept ▸ State.faulted_eq_false.1 hf) (State.faulted_eq_true.1 ht)
    · rw [State.fetchedWord, State.accessBase, if_pos hpc, if_pos hpc, ← encodeOfDecodeIsTheWord _ _ hdec]
      exact ⟨f, rfl, State.toNat_addr_of_raisedBy hraised⟩

/-! ### The report -/

/-- The rows that draw (R216). -/
theorem drawsDisplay_eq_true_iff : Instr.drawsDisplay i = true ↔ i = .cls ∨ ∃ x y n, i = .drw x y n := by
  cases i <;> simp [Instr.drawsDisplay]

/-- A display change is reported for a drawing instruction that ran and latched no fault (R94 stage 4, R216). -/
theorem displayModified_eq_true_iff : (stepReport s t).displayModified = true ↔
    ∃ i, s.fetch = .run i ∧ Instr.drawsDisplay i = true ∧ t.faulted = false := by
  unfold stepReport
  cases s.fetch with
  | halted | raised _ _ => exact iff_of_false nofun nofun
  | run i => simp

/-- Where the block is faulted after a step the report is the cause alone (R208 (c), R209). -/
theorem stepReport_of_faulted (ht : t.faulted = true) :
    stepReport s t = { displayModified := false, fault := t.fault.cause } := by
  have hd : (stepReport s t).displayModified = false := by
    rw [Bool.eq_false_iff, Ne, displayModified_eq_true_iff]
    rintro ⟨-, -, -, hf⟩
    exact Bool.false_ne_true (hf.symm.trans ht)
  rw [← hd]
  rfl

/-- The reply of a step that leaves the block faulted (R208 (c), R209, R217). -/
theorem State.apply_step_of_faulted (h : step s = .next t) (ht : t.faulted = true) :
    s.apply .step = .next (.live t, .stepped { displayModified := false, fault := t.fault.cause }) :=
  stepReport_of_faulted (s := s) ht ▸ State.apply_step h

/-- Settles O14: a display change is reported for a fetched `CLS` or `DRW` that completes. -/
theorem displayModifiedExactlyForClsAndDrw : Obligations.DisplayModifiedExactlyForClsAndDrw := by
  refine ⟨fun s t h => ⟨State.apply_step h, rfl⟩, fun s t hf _ => displayModified_eq_true_iff.trans ?_⟩
  simp only [State.fetch_eq_run, drawsDisplay_eq_true_iff]
  constructor
  · rintro ⟨i, ⟨-, hpc, hdec⟩, rfl | ⟨x, y, n, rfl⟩, ht⟩
    · exact ⟨ht, hpc, .inl hdec⟩
    · exact ⟨ht, hpc, .inr ⟨x, y, n, hdec⟩⟩
  · rintro ⟨ht, hpc, hdec | ⟨x, y, n, hdec⟩⟩
    · exact ⟨_, ⟨hf, hpc, hdec⟩, .inl rfl, ht⟩
    · exact ⟨_, ⟨hf, hpc, hdec⟩, .inr ⟨x, y, n, rfl⟩, ht⟩

/-- Settles O10: the step is fault entry, with the word and the address that `step_eq_takeFault` names. -/
theorem faultEntryIsPrecise : Obligations.FaultEntryIsPrecise := by
  intro s t hf h ht
  have hreport := stepReport_of_faulted (s := s) ht
  have hreply := State.apply_step_of_faulted h ht
  obtain ⟨f, rfl, haddr⟩ := step_eq_takeFault hf h ht
  exact ⟨rfl, rfl, rfl, Fault.addr_of_cause_ne, haddr, hreport, hreply⟩

/-! ### The halted block, and `skip` -/

/-- While a fault is latched a step does nothing (R209). -/
theorem step_of_faulted (h : s.faulted = true) : step s = .next s := by
  simp only [step, State.fetch_eq_halted.2 h]

/-- `skip` after `UnknownOpcode` (R210). -/
theorem State.skip_of_unknownOpcode (h : s.fault.cause = .unknownOpcode) : s.skip = s.leaveUnknownOpcode :=
  if_pos (decide_eq_true h)

/-- A refused `skip` (R210). -/
theorem State.skip_of_ne (h : s.fault.cause ≠ .unknownOpcode) : s.skip = s :=
  if_neg fun hacc => h (of_decide_eq_true hacc)

/-- The reply of `skip` (R210). -/
theorem State.apply_skip (s : State) : s.apply .skip =
    .next (.live s.skip, if s.fault.cause = .unknownOpcode then .skipAccepted else .skipRefused) := by
  simp only [State.apply, State.skipAccepted, decide_eq_true_eq]

/-- Settles O9: the decoder raises, the latch halts the block, and `skip` leaves it. -/
theorem unknownOpcodeIsLatchedAndCanBeSkipped : Obligations.UnknownOpcodeIsLatchedAndCanBeSkipped := by
  intro s hf hpc hdec
  have hfetch : s.fetch = .raised s.wordAtPc .unknownOpcode := State.fetch_eq_raised.2 ⟨hf, .inr ⟨hpc, hdec, rfl, rfl⟩⟩
  exact ⟨_, step_of_fetch_eq_raised hfetch, rfl, step_of_faulted (s.faulted_takeFault _ _), rfl,
    State.skip_of_unknownOpcode rfl⟩

/-- A fatal fault is kept by every operation but `reset` and a `load` that fits (R210). -/
theorem State.apply_keeps_fatal (hf : s.faulted = true) (hc : s.fault.cause ≠ .unknownOpcode) {op : HostOp}
    (hreset : op ≠ .reset) (hload : ∀ rom : List Byte, op = .load rom → 3584 < rom.length) :
    ∃ (t : State) (r : HostReply), s.apply op = .next (.live t, r) ∧ t.fault = s.fault := by
  cases op with
  | reset => exact absurd rfl hreset
  | load rom => exact ⟨s, _, if_neg fun hfits => (hload rom rfl).not_ge (of_decide_eq_true hfits), rfl⟩
  | step => exact ⟨s, _, State.apply_step_of_faulted (step_of_faulted hf) hf, rfl⟩
  | skip => exact ⟨s.skip, _, s.apply_skip, by rw [State.skip_of_ne hc]⟩
  | tick | setKey _ _ | readFramebuffer | readSoundActive | readState => exact ⟨_, _, rfl, rfl⟩

/-- Settles O56: `skip` by the cause, the other operations one by one; the reset state is not faulted. -/
theorem faultIsLeftOnlyBySkipResetOrLoad : Obligations.FaultIsLeftOnlyBySkipResetOrLoad := by
  refine ⟨fun s h => ?_, fun s h => ?_, fun s op hf hc => State.apply_keeps_fatal hf hc, fun s => ⟨_, rfl, rfl⟩,
    fun s rom h => ⟨s.loadRom rom, if_pos (decide_eq_true h), rfl⟩⟩
  · rw [State.apply_skip, if_pos h, State.skip_of_unknownOpcode h]
    rfl
  · rw [State.apply_skip, if_neg h, State.skip_of_ne h]

end Sys2Proof.Machine
end

section
/-! What the host changes beside a step (spec/60_exceptions.md R209, R213 to R215): any number of ticks, one key of the
latch, and both on a halted block. -/

namespace Sys2Proof.Machine

/-! ### Ticks -/

/-- k ticks are k countdowns of each timer and change nothing else (R213). -/
theorem State.ticks_eq (s : State) (k : Nat) :
    s.ticks k = { s with dt := countDown^[k] s.dt, st := countDown^[k] s.st } := by
  induction k generalizing s with
  | zero => rfl
  | succ k ih => exact ih s.tick

/-- k countdowns in numbers: minus k, not below 0 (R213). -/
theorem toNat_iterate_countDown (k : Nat) (b : Byte) : (countDown^[k] b).toNat = b.toNat - k := by
  induction k with
  | zero => rfl
  | succ k ih => rw [Function.iterate_succ_apply', toNat_countDown, ih, Nat.sub_sub]

/-- Settles O43: both timers by the countdown in numbers. -/
theorem ticksCountDownToZero : Obligations.TicksCountDownToZero := by
  refine ⟨fun s => ⟨rfl, toNat_countDown s.dt, toNat_countDown s.st, by simp [changesOnly]⟩,
    fun s k => ⟨s.toNat_dt_ticks k, ?_, ?_⟩⟩
  · rw [s.ticks_eq k]
    exact toNat_iterate_countDown k s.st
  · rw [s.ticks_eq k]
    simp [changesOnly]

/-- Settles O44: the sound output is a test of ST. -/
theorem soundIsActiveWhileStIsNonzero : Obligations.SoundIsActiveWhileStIsNonzero := fun s =>
  ⟨s.soundActive, rfl, s.soundActive_eq_true_iff.trans (not_congr BitVec.toNat_inj.symm)⟩

/-! ### One key -/

/-- The mask of one key (R29). -/
theorem getLsbD_keyMask (j k : Key) : (1#16 <<< k.val).getLsbD j.val = decide (j = k) := by
  decide +revert

/-- The latch after `set_key`, key by key (R215). -/
theorem State.getLsbD_keys_setKey (s : State) (k j : Key) (p : Bool) :
    (s.setKey k p).keys.getLsbD j.val = if j = k then p else s.keys.getLsbD j.val := by
  cases p with
  | true =>
    calc (s.keys ||| 1#16 <<< k.val).getLsbD j.val
      _ = (s.keys.getLsbD j.val || decide (j = k)) := by rw [BitVec.getLsbD_or, getLsbD_keyMask]
      _ = if j = k then true else s.keys.getLsbD j.val := by split <;> simp_all
  | false =>
    calc (s.keys &&& ~~~(1#16 <<< k.val)).getLsbD j.val
      _ = (s.keys.getLsbD j.val && !decide (j = k)) := by
        rw [BitVec.getLsbD_and, BitVec.getLsbD_not, getLsbD_keyMask, decide_eq_true j.isLt, Bool.true_and]
      _ = if j = k then false else s.keys.getLsbD j.val := by split <;> simp_all

/-- Settles O47: the mask selects the one key. -/
theorem setKeyWritesOneKey : Obligations.SetKeyWritesOneKey := fun s k p =>
  ⟨rfl, fun j => s.getLsbD_keys_setKey k j p, by simp [changesOnly]⟩

/-! ### The halted block -/

/-- Settles O11: a halted step changes nothing, and the timers and the key latch do not depend on FAULT. -/
theorem faultedBlockIsHalted : Obligations.FaultedBlockIsHalted := fun s h =>
  ⟨step_of_faulted h, stepReport_of_faulted h, State.apply_step_of_faulted (step_of_faulted h) h,
    ⟨toNat_countDown s.dt, toNat_countDown s.st, rfl⟩,
    fun k p => ⟨(s.getLsbD_keys_setKey k k p).trans (if_pos rfl), rfl⟩, rfl⟩

end Sys2Proof.Machine
end

section
/-! Reset, `load`, sequences of host operations and the self-jump (spec/70_reset_and_hazards.md R240, R241, R244, R247). -/

namespace Sys2Proof.Machine

variable {s : State} {c : Config} {b b' : Block} {op : HostOp} {ops : List HostOp} {r : HostReply}

/-! ### Reset (R240) -/

theorem changesOnly_refl (ps : List Part) (s : State) : changesOnly ps s s := by simp [changesOnly]

/-- After reset the bytes at PC are past the font, so the word there is 0 (R34). -/
theorem State.wordAtPc_resetOp (s : State) : s.resetOp.wordAtPc = 0#16 :=
  calc s.resetOp.wordAtPc = State.reset.wordAtPc := rfl
    _ = 0#16 := by decide

/-- The word 0 spells no instruction, so the first step after a reset raises (R96, R204). -/
theorem State.step_resetOp (s : State) : step s.resetOp = .next (s.resetOp.takeFault 0#16 .unknownOpcode) := by
  have hpc : State.reset.pc.toNat + 1 < memSize := by decide
  have hdec : decodeWord s.resetOp.wordAtPc = none := by
    rw [s.wordAtPc_resetOp, decodeWord_eq_none_iff_illegalWord]
    decide
  exact step_of_fetch_eq_raised (State.fetch_eq_raised.2 ⟨rfl, .inr ⟨hpc, hdec, s.wordAtPc_resetOp.symm, rfl⟩⟩)

/-- Settles O53: the operation keeps the configuration and, on a live block, the draw counter. -/
theorem resetOperationIsTotal : Obligations.ResetOperationIsTotal :=
  ⟨fun s => ⟨s.resetOp, _, rfl, by simp [changesOnly, State.resetOp], s.step_resetOp, rfl⟩,
    fun _ => ⟨_, rfl, changesOnly_refl _ _⟩⟩

/-! ### Load (R241) -/

theorem romFits_eq_true {rom : List Byte} : romFits rom = true ↔ rom.length ≤ 3584 := decide_eq_true_iff

/-- The ROM from 0x200, and the reset contents everywhere else (R73). -/
theorem State.read_loadRom (s : State) {rom : List Byte} (h : rom.length ≤ 3584) (a : Nat) :
    (s.loadRom rom).mem.read a =
      if 0x200 ≤ a ∧ a < 0x200 + rom.length then rom.getD (a - 0x200) 0#8 else State.reset.mem.read a :=
  Memory.read_writeBytes (Nat.add_le_add_left h progBase) rfl a

theorem State.changesOnly_loadRom (s : State) (rom : List Byte) :
    changesOnly [.mem, .draws] { State.reset with cfg := s.cfg } (s.loadRom rom) := by
  simp [changesOnly, State.loadRom, State.resetOp]

/-- Settles O54: a ROM that fits is stored in the reset state; the size check comes before the reset. -/
theorem loadPlacesTheRomOrChangesNothing : Obligations.LoadPlacesTheRomOrChangesNothing := by
  have htooLarge {rom : List Byte} (h : 3584 < rom.length) : ¬ romFits rom = true :=
    fun hfits => h.not_ge (romFits_eq_true.1 hfits)
  exact ⟨fun s rom h => ⟨s.loadRom rom, if_pos (romFits_eq_true.2 h), fun a _ => s.read_loadRom h a,
      s.changesOnly_loadRom rom⟩,
    fun _ _ h => if_neg (htooLarge h), fun _ _ h => if_neg (htooLarge h),
    fun c rom h => ⟨State.loadRom { State.reset with cfg := c } rom, if_pos (romFits_eq_true.2 h),
      fun a _ => State.read_loadRom _ h a, State.changesOnly_loadRom _ rom⟩⟩

/-! ### Sequences of operations (R247) -/

/-- A sequence runs exactly when its first operation has a meaning and the rest runs from there (R247). -/
theorem Block.run_cons_eq_next : Block.run c (op :: ops) b = .next b' ↔
    ∃ (b₁ : Block) (r : HostReply), b.apply c op = .next (b₁, r) ∧ Block.run c ops b₁ = .next b' := by
  rw [Block.run]
  cases b.apply c op with
  | next a => obtain ⟨b₁, r⟩ := a; simp
  | fault _ | refused _ => simp

/-- What every sequence of operations keeps: a block never reset, or a state that meets the invariant of R38 and carries
the configuration of the machine (R6). -/
def Block.Inv (c : Config) (b : Block) : Prop := b = .neverReset ∨ ∃ s : State, b = .live s ∧ s.Inv ∧ s.cfg = c

/-- On a block never reset only `reset` and `load` have a meaning, and both leave what a live block keeps (R36). -/
theorem Block.inv_of_applyNeverReset (h : applyNeverReset c op = .next (b, r)) : b.Inv c := by
  cases op with
  | reset => cases h; exact .inr ⟨_, rfl, resetMeetsTheInvariant, rfl⟩
  | load rom =>
    simp only [applyNeverReset] at h
    split at h
    case isTrue hfits => cases h; exact .inr ⟨_, rfl, .loadRom _ hfits, rfl⟩
    case isFalse => cases h; exact .inl rfl
  | step | tick | setKey _ _ | skip | readFramebuffer | readSoundActive | readState => cases h

theorem Block.Inv.apply (hb : b.Inv c) (h : b.apply c op = .next (b', r)) : b'.Inv c := by
  obtain rfl | ⟨s, rfl, hs, rfl⟩ := hb
  · exact Block.inv_of_applyNeverReset h
  · exact .inr (everyOperationKeepsTheInvariant s op b' r hs h)

theorem Block.Inv.run (hb : b.Inv c) (h : Block.run c ops b = .next b') : b'.Inv c := by
  induction ops generalizing b with
  | nil => cases h; exact hb
  | cons op ops ih =>
    obtain ⟨b₁, r, happly, hrun⟩ := Block.run_cons_eq_next.1 h
    exact ih (hb.apply happly) hrun

/-- Settles O17: operation by operation, from a block never reset. -/
theorem everyOperationSequenceKeepsTheInvariant : Obligations.EveryOperationSequenceKeepsTheInvariant :=
  fun _ _ _ => Block.Inv.run (.inl rfl)

/-- On a live block every operation has a meaning and leaves a live block (R217). -/
theorem State.apply_total (s : State) (op : HostOp) :
    ∃ (t : State) (r : HostReply), s.apply op = .next (.live t, r) := by
  cases op with
  | load rom => simp only [State.apply]; split <;> exact ⟨_, _, rfl⟩
  | step =>
    obtain ⟨t, h⟩ := everyStepAnswersANextState s
    exact ⟨t, _, State.apply_step h⟩
  | reset | tick | setKey _ _ | skip | readFramebuffer | readSoundActive | readState => exact ⟨_, _, rfl⟩

/-- Settles O18: operation by operation. -/
theorem everyOperationSequenceRuns : Obligations.EveryOperationSequenceRuns := by
  intro c ops
  induction ops with
  | nil => exact fun s => ⟨s, rfl⟩
  | cons op ops ih =>
    intro s
    obtain ⟨s₁, r, happly⟩ := s.apply_total op
    obtain ⟨t, hrun⟩ := ih s₁
    exact ⟨t, Block.run_cons_eq_next.2 ⟨.live s₁, r, happly, hrun⟩⟩

/-! ### The self-jump (R244) -/

/-- An address below 4096 is its own low 12 bits. -/
theorem zext16_setWidth_of_lt {w : Word} (h : w.toNat < 4096) : zext16 (w.setWidth 12) = w := by
  apply BitVec.eq_of_toNat_eq
  rw [toNat_zext16, BitVec.toNat_setWidth, Nat.mod_eq_of_lt h]

theorem State.selfJump_eq_true : s.selfJump = true ↔
    s.fetch = .run (.jp (s.pc.setWidth 12)) ∧ s.pc.toNat < 4096 := by
  simp only [State.selfJump, Bool.and_eq_true, decide_eq_true_eq]

/-- Settles O21: the jump's target is PC. -/
theorem selfJumpStepChangesNothing : Obligations.SelfJumpStepChangesNothing := by
  intro s h
  obtain ⟨hfetch, hpc⟩ := State.selfJump_eq_true.1 h
  calc step s = .next (s.setPc (zext16 (s.pc.setWidth 12))) := step_of_fetch_eq_run hfetch
    _ = .next s := by rw [zext16_setWidth_of_lt hpc]; rfl

end Sys2Proof.Machine
end
